-- ==== Sys2Proof/Word.lean ====
section
/-! DEFINITION. The bit-vector types of the LJ8: bytes, memory words and word addresses (00_scope.md, Words and addresses). -/

namespace Sys2Proof

/-- One byte of a memory word or of a management frame. -/
abbrev Byte := BitVec 8

/-- One word of the attached memory. -/
abbrev Word := BitVec 32

/-- A word address on the host side or the memory side, 0x000000 to 0x3FFFFF. -/
abbrev Addr := BitVec 22

/-- An address argument as the management port carries it, in three bytes (R168). -/
abbrev WideAddr := BitVec 24

/-- The number of a context, 0 to 7 (R1). -/
abbrev CtxNum := Fin 8

/-- The number of a source, 0 to 3: the tag HSRC carries (R58). -/
abbrev SrcNum := Fin 4

end Sys2Proof
end

