-- ==== Sys2Proof/Syntax.lean ====
section
/-! DEFINITION. The commands of the LJ8: one constructor per row of spec/opcode_table.json. -/

namespace Sys2Proof

/-- How far a grant command carries its grant (log 4).  The table lists each grant whole; R86, R90 to
R93, R113, R118 and R121 say what falls inside one, so a grant may also be carried only part of the way. -/
inductive Extent where
  /-- to the end of the grant -/
  | toEnd
  /-- the start step, if it is not yet made, and then at most this many memory accesses, without ending -/
  | accesses (n : Nat)
  deriving DecidableEq, Repr

/-- A command.  Management commands carry the argument bytes of R168, each field in its full byte
width, so that an argument outside its range can be sent and is refused by the command's own checks. -/
inductive Instr where
  /-- GET_ID (R160) -/
  | getId
  /-- GET_STATUS (R160) -/
  | getStatus
  /-- POP_EVENT (R163) -/
  | popEvent
  /-- ACK_LOST (R164) -/
  | ackLost
  /-- REPEAT_RESPONSE (R158) -/
  | repeatResponse
  /-- SET_GEOMETRY (R21, R143) -/
  | setGeometry (jbase : WideAddr) (nseg : BitVec 16) (gen : Byte)
  /-- FORMAT (R143) -/
  | format
  /-- RECOVER (R145) -/
  | recover
  /-- GATE (R154) -/
  | gate
  /-- SET_LIMITS (R161) -/
  | setLimits (qseg qclm : BitVec 16) (jfull : Byte) (holdlim idlelim : BitVec 16) (lowwater tbdiv : Byte)
  /-- GET_LIMITS (R161) -/
  | getLimits
  /-- SET_REGION (R63) -/
  | setRegion (index enable mode : Byte) (base limit : WideAddr)
  /-- GET_REGION (R63) -/
  | getRegion (index : Byte)
  /-- SET_GUARD (R116) -/
  | setGuard (index enable : Byte) (addr : WideAddr) (expected mask : Word) (trigger action bound : Byte)
  /-- GET_GUARD (R117) -/
  | getGuard (index : Byte)
  /-- OPEN (R6, R7) -/
  | openEpoch (source : Byte)
  /-- COMMIT (R96) -/
  | commit (context : Byte)
  /-- ABORT (R100) -/
  | abort (context : Byte)
  /-- TOUCH (R14) -/
  | touch (context : Byte)
  /-- RETRY (R107) -/
  | retry (context : Byte)
  /-- DISCARD (R108) -/
  | discard (context : Byte)
  /-- GET_CONTEXT (R20) -/
  | getContext (context : Byte)
  /-- SET_ACCOUNTING (R129) -/
  | setAccounting (group threshold holdMode actions : Byte)
  /-- GET_COUNTERS (R137) -/
  | getCounters (source : Byte)
  /-- CLEAR_COUNTERS (R136) -/
  | clearCounters (source mask : Byte)
  /-- UNFENCE (R135) -/
  | unfence (source : Byte)
  /-- SET_EVENT_MASK (R164) -/
  | setEventMask (mask : BitVec 16)
  /-- SET_STAT_SELECT (R165) -/
  | setStatSelect (stat0 stat1 : Byte)
  /-- BAD_OPCODE: a frame whose opcode byte is no command (R157) -/
  | badOpcode (opcode : Byte)
  /-- SHORT_FRAME: SEL# rises before the execution point (R157) -/
  | shortFrame
  /-- HOST_ACCESS_START: HSTB# is asserted (R58); `data` is HD and counts only for a write -/
  | hostAccessStart (addr : Addr) (be : BitVec 4) (src : SrcNum) (write : Bool) (data : Word)
  /-- STROBE_IGNORED: a strobe while an access is in the part (R58) -/
  | strobeIgnored (addr : Addr) (be : BitVec 4) (src : SrcNum) (write : Bool) (data : Word)
  /-- FORWARDED_READ: host-path grant of a read (R67) -/
  | forwardedRead (x : Extent)
  /-- FORWARDED_WRITE: host-path grant of a write without a record (R67) -/
  | forwardedWrite (x : Extent)
  /-- JOURNALLED_WRITE_GRANT: host-path grant of a journalled write (R79) -/
  | journalledWriteGrant (x : Extent)
  /-- ARMING_READ: guard arming grant (R118) -/
  | armingRead (x : Extent)
  /-- COMMIT_MARKER: Replay Engine grant (R97) -/
  | commitMarker (x : Extent)
  /-- RESTORE_STEP: Replay Engine grant (R102) -/
  | restoreStep (x : Extent)
  /-- ABORT_MARKER: Replay Engine grant (R105) -/
  | abortMarker (x : Extent)
  /-- DISCARD_MARKER: Replay Engine grant (R109) -/
  | discardMarker (x : Extent)
  /-- FREEING_STEP: Replay Engine grant (R40) -/
  | freeingStep (x : Extent)
  /-- FORMAT_STEP: format grant (R143) -/
  | formatStep (x : Extent)
  /-- SURVEY_STEP: recovery grant (R146) -/
  | surveyStep (x : Extent)
  /-- JUDGEMENT_FINAL_SEGMENT: recovery grant (R148) -/
  | judgementFinalSegment (x : Extent)
  /-- JUDGEMENT_SEGMENT: recovery grant (R149) -/
  | judgementSegment (x : Extent)
  /-- CLAIM_REBUILD: recovery grant (R152) -/
  | claimRebuild (x : Extent)
  /-- IDLE_EXPIRY: the idle timer of a context runs out (R13) -/
  | idleExpiry (context : CtxNum)
  /-- HOLD_EXPIRED: the hold timer of the held access runs out (R71) -/
  | holdExpired
  /-- PFAIL_ASSERTED: PFAIL# falls (R141) -/
  | pfailAsserted
  /-- PFAIL_DEASSERTED: PFAIL# rises (R141) -/
  | pfailDeasserted
  /-- RESET: power-on reset or RESET# takes effect (R140) -/
  | reset
  /-- RESET_END: the reset ends (R140) -/
  | resetEnd
  deriving DecidableEq, Repr

end Sys2Proof
end

