-- ==== Sys2Proof/WellFormed.lean ====
section
/-! DEFINITION. Which commands can be sent: the one side condition the operands of a row leave open. -/

namespace Sys2Proof

/-- The opcodes of the command summary (R168). -/
def commandOpcodes : List Byte :=
  [0x01#8, 0x02#8, 0x03#8, 0x04#8, 0x05#8, 0x10#8, 0x11#8, 0x12#8, 0x13#8, 0x18#8, 0x19#8, 0x20#8, 0x21#8, 0x28#8,
   0x29#8, 0x30#8, 0x31#8, 0x32#8, 0x33#8, 0x34#8, 0x35#8, 0x36#8, 0x40#8, 0x41#8, 0x42#8, 0x43#8, 0x48#8, 0x49#8]

/-- A command is well formed when it can be sent.  BAD_OPCODE is a frame whose opcode byte is NOT one of
the command summary (R157); every other row can be sent with any operands. -/
def WellFormed : Instr → Bool
  | .badOpcode op => !commandOpcodes.contains op
  | _ => true

end Sys2Proof
end

