-- ==== Sys2Proof/Decode.lean ====
section
/-! DEFINITION. Reading a command from bits: the opcode table gives its rows no bits, so a table word spells no command; a frame of the management port is read by the command summary of R168. -/

namespace Sys2Proof

/-- The command that a word spells by the table's bits.  No row of spec/opcode_table.json gives bits
(its "fields" are all empty), so no word spells one (log 22). -/
def decodeTableWord (_nbits _w : Nat) : Option Instr := none

/-- The command of a frame from its opcode and the bytes that follow (R155, R168).  A frame that stops
before its execution point is a short frame; bytes after it are ignored; an unknown opcode takes none
(R157). -/
def decodeCommand (op : Byte) (args : List Byte) : Instr :=
  match op.toNat, args with
  | 0x01, _ => .getId
  | 0x02, _ => .getStatus
  | 0x03, _ => .popEvent
  | 0x04, _ => .ackLost
  | 0x05, _ => .repeatResponse
  | 0x10, j2 :: j1 :: j0 :: n1 :: n0 :: g :: _ => .setGeometry (j2 ++ j1 ++ j0) (n1 ++ n0) g
  | 0x10, _ => .shortFrame
  | 0x11, _ => .format
  | 0x12, _ => .recover
  | 0x13, _ => .gate
  | 0x18, q1 :: q0 :: c1 :: c0 :: j :: h1 :: h0 :: i1 :: i0 :: l :: t :: _ =>
      .setLimits (q1 ++ q0) (c1 ++ c0) j (h1 ++ h0) (i1 ++ i0) l t
  | 0x18, _ => .shortFrame
  | 0x19, _ => .getLimits
  | 0x20, i :: e :: m :: b2 :: b1 :: b0 :: l2 :: l1 :: l0 :: _ =>
      .setRegion i e m (b2 ++ b1 ++ b0) (l2 ++ l1 ++ l0)
  | 0x20, _ => .shortFrame
  | 0x21, i :: _ => .getRegion i
  | 0x21, _ => .shortFrame
  | 0x28, i :: e :: a2 :: a1 :: a0 :: x3 :: x2 :: x1 :: x0 :: m3 :: m2 :: m1 :: m0 :: t :: a :: b :: _ =>
      .setGuard i e (a2 ++ a1 ++ a0) (x3 ++ x2 ++ x1 ++ x0) (m3 ++ m2 ++ m1 ++ m0) t a b
  | 0x28, _ => .shortFrame
  | 0x29, i :: _ => .getGuard i
  | 0x29, _ => .shortFrame
  | 0x30, s :: _ => .openEpoch s
  | 0x30, _ => .shortFrame
  | 0x31, c :: _ => .commit c
  | 0x31, _ => .shortFrame
  | 0x32, c :: _ => .abort c
  | 0x32, _ => .shortFrame
  | 0x33, c :: _ => .touch c
  | 0x33, _ => .shortFrame
  | 0x34, c :: _ => .retry c
  | 0x34, _ => .shortFrame
  | 0x35, c :: _ => .discard c
  | 0x35, _ => .shortFrame
  | 0x36, c :: _ => .getContext c
  | 0x36, _ => .shortFrame
  | 0x40, g :: t :: h :: a :: _ => .setAccounting g t h a
  | 0x40, _ => .shortFrame
  | 0x41, s :: _ => .getCounters s
  | 0x41, _ => .shortFrame
  | 0x42, s :: m :: _ => .clearCounters s m
  | 0x42, _ => .shortFrame
  | 0x43, s :: _ => .unfence s
  | 0x43, _ => .shortFrame
  | 0x48, m1 :: m0 :: _ => .setEventMask (m1 ++ m0)
  | 0x48, _ => .shortFrame
  | 0x49, a :: b :: _ => .setStatSelect a b
  | 0x49, _ => .shortFrame
  | _, _ => .badOpcode op

/-- The command that a frame's bytes on SDI are, from the fall of SEL# to its rise (R155, R157). -/
def decodeFrame : List Byte → Instr
  | [] => .shortFrame
  | op :: args => decodeCommand op args

/-- The two bytes of a 16-bit field, most significant first (R168). -/
def be16 (x : BitVec 16) : List Byte := [x.extractLsb' 8 8, x.extractLsb' 0 8]

/-- The three bytes of an address argument, most significant first (R168). -/
def be24 (x : WideAddr) : List Byte := [x.extractLsb' 16 8, x.extractLsb' 8 8, x.extractLsb' 0 8]

/-- The four bytes of a data word, most significant first (R168). -/
def be32 (x : Word) : List Byte :=
  [x.extractLsb' 24 8, x.extractLsb' 16 8, x.extractLsb' 8 8, x.extractLsb' 0 8]

/-- The bytes a sender shifts in for a command of the management port (R168); the other rows are no
frames. -/
def encodeFrame : Instr → Option (List Byte)
  | .getId => some [0x01#8]
  | .getStatus => some [0x02#8]
  | .popEvent => some [0x03#8]
  | .ackLost => some [0x04#8]
  | .repeatResponse => some [0x05#8]
  | .setGeometry j n g => some (0x10#8 :: be24 j ++ be16 n ++ [g])
  | .format => some [0x11#8]
  | .recover => some [0x12#8]
  | .gate => some [0x13#8]
  | .setLimits q c j h i l t => some (0x18#8 :: be16 q ++ be16 c ++ [j] ++ be16 h ++ be16 i ++ [l, t])
  | .getLimits => some [0x19#8]
  | .setRegion i e m b l => some ([0x20#8, i, e, m] ++ be24 b ++ be24 l)
  | .getRegion i => some [0x21#8, i]
  | .setGuard i e a x m t act b => some ([0x28#8, i, e] ++ be24 a ++ be32 x ++ be32 m ++ [t, act, b])
  | .getGuard i => some [0x29#8, i]
  | .openEpoch s => some [0x30#8, s]
  | .commit c => some [0x31#8, c]
  | .abort c => some [0x32#8, c]
  | .touch c => some [0x33#8, c]
  | .retry c => some [0x34#8, c]
  | .discard c => some [0x35#8, c]
  | .getContext c => some [0x36#8, c]
  | .setAccounting g t h a => some [0x40#8, g, t, h, a]
  | .getCounters s => some [0x41#8, s]
  | .clearCounters s m => some [0x42#8, s, m]
  | .unfence s => some [0x43#8, s]
  | .setEventMask m => some (0x48#8 :: be16 m)
  | .setStatSelect a b => some [0x49#8, a, b]
  | .badOpcode op => some [op]
  | .shortFrame => some []
  | _ => none

end Sys2Proof
end

