-- ==== Sys2Proof/Config.lean ====
section
/-! DEFINITION. What the part fixes once (capacities, identity codes) and the free values: choices the spec leaves open, as constants without a body. -/

namespace Sys2Proof.Config

/-- Entries of the Claim Table (R43). -/
def claimCapacity : Nat := 512

/-- Records the event queue holds (R162). -/
def eventCapacity : Nat := 32

/-- Words of the attached memory (00_scope.md); all of them are populated (log 24). -/
def memoryWords : Nat := 4194304

/-- Words of one segment (R23). -/
def segmentWords : Nat := 64

/-- Words of one slot (R23). -/
def slotWords : Nat := 4

/-- The last slot of a segment, kept for a marker (R24). -/
def lastSlot : Nat := 15

/-- Vendor code answered by GET_ID (R160). -/
def vendor : BitVec 16 := 0x3C51#16

/-- Part code answered by GET_ID (R160). -/
def part : BitVec 16 := 0x0708#16

/-- Revision answered by GET_ID (R160). -/
def revision : Byte := 0x02#8

/-- What a byte of the attached memory that nothing has written reads as.
DESIGN CHOICE (log 1), unsafe: the spec gives no contents. -/
def blankByte : Byte := 0#8

/-- FREE VALUE (log 11): when one refusal under JFULL = ABORT makes a capacity request and also reaches
its threshold, whether the capacity request is taken first.  R82: "The two requests are taken in
whichever order they arrive".  The argument is the count of such choices made so far. -/
opaque capacityRequestFirst : Nat → Bool

/-- FREE VALUE (log 19): the discard flag that recovery reads from an ABORT marker whose word 2 is
neither 0 nor 1; R28 and R166 give only those two values. -/
opaque oddDiscardFlag : Word → Bool

end Sys2Proof.Config
end

