-- ==== Sys2Proof/Machine/State.lean ====
section
/-! DEFINITION. The state of the LJ8 as plain data: every register, table, list, flag and pin the spec gives it, its reset value, and the reasons a step could stop. -/

namespace Sys2Proof.Machine

/-! ### Names and codes -/

/-- The device mode (R138). -/
inductive Mode where
  | gated | formatting | recovering | run | frozen
  deriving DecidableEq, Repr

/-- Why an epoch is being undone (R1, R3). -/
inductive Cause where
  | abortCmd | idle | guard | capacity | threshold | recovery
  deriving DecidableEq, Repr

/-- What made a context faulted (R1). -/
inductive FaultKind where
  | check | foreign | short | chain
  deriving DecidableEq, Repr

/-- Whether the fault was found by a job in RUN or during RECOVERING (R1). -/
inductive FaultOrigin where
  | live | recovery
  deriving DecidableEq, Repr

/-- The JFULL policy (R81). -/
inductive JFull where
  | hold | refuse | abort
  deriving DecidableEq, Repr

/-- The treatment of writes in a region (R61). -/
inductive RegionMode where
  | pass | journal | journalRequired | readonly
  deriving DecidableEq, Repr

/-- The requesters of the memory port (R74). -/
inductive Requester where
  | hp | be | ga
  deriving DecidableEq, Repr

/-- Transitions that raise a guard event (R114). -/
inductive Trigger where
  | onBreak | onMake | onBoth
  deriving DecidableEq, Repr

/-- What a guard does beyond raising events (R114). -/
inductive GuardAction where
  | note | rollbackWriter | holdCommit
  deriving DecidableEq, Repr

/-- What the Guard Monitor knows of a guarded word (R114). -/
inductive GuardState where
  | unarmed | arming | isMatch | isMismatch
  deriving DecidableEq, Repr

/-- The refusal groups (R127). -/
inductive Group where
  | conflict | capacity | policy
  deriving DecidableEq, Repr

/-- What an increment does to a counter that stands at 255 (R128). -/
inductive HoldMode where
  | saturate | roll
  deriving DecidableEq, Repr

/-- The kinds of journal record that the part writes (R26). -/
inductive RecordKind where
  | blank | header | pre | restored | commit | abort | released
  deriving DecidableEq, Repr

/-- The event kinds (R167). -/
inductive EventKind where
  | committed | rolledBack | faulted | discarded | guard | threshold | lowWater | recoveryDone | formatDone
  deriving DecidableEq, Repr

/-! ### Contexts (Chapter 1) -/

/-- One entry of a chain: a segment number and that segment's chain index (R1). -/
structure ChainEntry where
  seg : Nat
  idx : Nat
  deriving DecidableEq, Repr

/-- A place in the journal area: a slot of a segment. -/
structure SlotPos where
  seg  : Nat
  slot : Nat
  deriving DecidableEq, Repr

/-- A running idle timer: the milliseconds left (R1, idle remaining), and the microseconds already
counted of the present millisecond (the model's own, log 5). -/
structure Idle where
  ms : Nat
  us : Nat
  deriving DecidableEq, Repr

/-- The fault fields of a FAULTED context (R1).  `pos` is absent for CHAIN. -/
structure FaultInfo where
  kind   : FaultKind
  origin : FaultOrigin
  pos    : Option SlotPos
  deriving DecidableEq, Repr

/-- The fields present in every state but FREE (R1).  Claims held is the count of the context's claims
in the Claim Table (R44): `State.claimsHeld`. -/
structure Epoch where
  source        : SrcNum
  seq           : BitVec 16
  chain         : List ChainEntry
  fill          : Nat
  headerWritten : Bool
  preWritten    : Nat
  restored      : Nat
  markerWritten : Bool
  deriving DecidableEq, Repr

/-- The states other than FREE, each with the fields present in it alone (R1). -/
inductive Phase where
  | opened (idle : Option Idle)
  | committing
  | rollingBack (cause : Cause)
  | faulted (cause : Cause) (fault : FaultInfo)
  | discarding
  deriving DecidableEq, Repr

/-- A context record (R1, R2): FREE holds nothing besides its number. -/
inductive Context where
  | free
  | active (phase : Phase) (epoch : Epoch)
  deriving DecidableEq, Repr

/-- An entry of the source table: the binding (R4) and the fence flag (R133). -/
structure Source where
  bound  : Option CtxNum
  fenced : Bool
  deriving DecidableEq, Repr

/-- A claim: a word and the context that has journalled it (R43). -/
structure Claim where
  addr  : Addr
  owner : CtxNum
  deriving DecidableEq, Repr

/-! ### Host access (Chapter 4) -/

/-- An entry of the region table (R61). -/
structure Region where
  enable : Bool
  mode   : RegionMode
  base   : Addr
  limit  : Addr
  deriving DecidableEq, Repr

/-- How an access sent to the memory side is to be carried out (R66).  A journalled write names the
epoch it was classified for, so that a grant for another epoch is a different outcome (R80, log 13). -/
inductive Route where
  | forwarded
  | journalled (ctx : CtxNum) (seq : BitVec 16)
  deriving DecidableEq, Repr

/-- Why an access is held, with the capacity kind (R68). -/
inductive HoldReason where
  | conflict
  | claimFull
  | journalFull
  deriving DecidableEq, Repr

/-- The refusal kinds (R73).  HOLD_EXPIRED keeps the reason of the hold it ended. -/
inductive RefusalKind where
  | gated | frozen | journalWindow | readonly | noEpoch | fenced | conflict | journalFull | claimFull | quota
  | holdExpired (reason : HoldReason)
  | lockedWord
  deriving DecidableEq, Repr

/-- Where the access in the part stands between two steps (R58): sent to the memory side (waiting for a
grant, or in a grant while HP holds the port), or held. -/
inductive Place where
  | toMemory (route : Route)
  | held (reason : HoldReason)
  deriving DecidableEq, Repr

/-- What the strobe took from the host side (R58). -/
structure Access where
  addr  : Addr
  be    : BitVec 4
  src   : SrcNum
  write : Bool
  data  : Word
  deriving DecidableEq, Repr

/-- The access in the part: what it is, where it stands, and the time left of its hold limit once it
has been held (R68). -/
structure HostAccess where
  acc      : Access
  place    : Place
  holdLeft : Option Nat
  deriving DecidableEq, Repr

/-- How an access ended (R59). -/
inductive Ending where
  | done
  | refused (kind : RefusalKind)
  deriving DecidableEq, Repr

/-! ### Guards, accounting, limits, events -/

/-- A guard entry (R114).  `bound = none` is ANY. -/
structure Guard where
  enable   : Bool
  addr     : Addr
  expected : Word
  mask     : Word
  trigger  : Trigger
  action   : GuardAction
  bound    : Option CtxNum
  state    : GuardState
  deriving DecidableEq, Repr

/-- A refusal counter and its threshold-reached flag (R127, R130). -/
structure Counter where
  value   : Byte
  reached : Bool
  deriving DecidableEq, Repr

/-- The settings of a refusal group (R129).  Action mask: IRQ 1, FENCE 2, ABORT 4. -/
structure GroupSettings where
  threshold : Byte
  holdMode  : HoldMode
  actions   : BitVec 3
  deriving DecidableEq, Repr

/-- The seven limits (R161). -/
structure Limits where
  qseg     : Nat
  qclm     : Nat
  jfull    : JFull
  holdlim  : Nat
  idlelim  : Nat
  lowwater : Nat
  tbdiv    : Nat
  deriving DecidableEq, Repr

/-- An event record (R167); `none` is the value "none". -/
structure Event where
  kind  : EventKind
  seq   : Byte
  ctx   : Option CtxNum
  src   : Option SrcNum
  code  : Option Byte
  mode  : Mode
  count : BitVec 16
  addr  : Option Addr
  deriving DecidableEq, Repr

/-! ### Replay Engine and recovery (Chapters 6 and 9) -/

/-- An entry of the engine queue (R94). -/
structure QueueEntry where
  ctx    : CtxNum
  resume : Option SlotPos
  deriving DecidableEq, Repr

/-- The phase of the head job, with the position of the RESTORE phase (R95). -/
inductive JobPhase where
  | marker
  | restore (pos : SlotPos)
  | freeing
  deriving DecidableEq, Repr

/-- The record of the head job (R95). -/
structure Job where
  ctx   : CtxNum
  phase : JobPhase
  deriving DecidableEq, Repr

/-- What the survey keeps of a live header (R146). -/
structure LiveSeg where
  seg : Nat
  ctx : CtxNum
  src : SrcNum
  idx : Nat
  seq : BitVec 16
  deriving DecidableEq, Repr

/-- What recovery keeps after the survey: the live headers, the chains still to judge, the contexts
found with a valid marker, and the two counts of RECOVERY_DONE (R146 to R152). -/
structure Recovery where
  found      : List LiveSeg
  toJudge    : List CtxNum
  marked     : List CtxNum
  rolledBack : Nat
  finished   : Nat
  deriving DecidableEq, Repr

/-- A chain whose final segment has been read and whose other segments are being read (R149): the fill
and the RESTORED count found in the final segment, the segments left, and the counts so far. -/
structure JudgeScan where
  fill          : Nat
  finalRestored : Nat
  left          : List ChainEntry
  pre           : Nat
  restored      : Nat
  deriving DecidableEq, Repr

/-- The format or recovery work in progress (R143, R145 to R152). -/
inductive Work where
  | idle
  | format (next : Nat)
  | survey (next : Nat) (found : List LiveSeg)
  | judge (r : Recovery) (scan : Option JudgeScan)
  | replay (r : Recovery)
  | rebuild (r : Recovery) (left : List (CtxNum × ChainEntry))
  deriving DecidableEq, Repr

/-! ### Grants (R74) -/

/-- The working record of a journalled write grant (R78).  Header needed is "the target slot is 1". -/
structure Working where
  source   : SrcNum
  ctx      : CtxNum
  seq      : BitVec 16
  addr     : Addr
  be       : BitVec 4
  data     : Word
  seg      : Nat
  slot     : Nat
  idx      : Nat
  header   : Bool
  preimage : Option Word
  deriving DecidableEq, Repr

/-- What a memory access of a grant brings about on the chip at the moment it completes. -/
inductive Mark where
  | quiet
  /-- the pre-image read: the working record takes the word (R84) -/
  | preimage (value : Word)
  /-- a header's word 0: header written of chain[0] (R85) -/
  | header (ctx : CtxNum)
  /-- a PRE record's word 0: fill and PRE records written (R86) -/
  | record (ctx : CtxNum) (slot : Nat)
  /-- a marker's word 0: marker written (R97) -/
  | marker (ctx : CtxNum)
  /-- the RESTORED rewrite: the claim on the word is released, if this context owns it, and records
  restored rises (R50, R103) -/
  | restored (ctx : CtxNum) (addr : Addr)
  /-- the write of a watched word: evaluated for each guard (R121) -/
  | watched (addr : Addr) (new : Word) (writer : Option CtxNum) (src : SrcNum) (restore : Bool)
  deriving DecidableEq, Repr

/-- One single-word access of the memory port. -/
inductive PortOp where
  | read (addr : Addr)
  | write (addr : Addr) (be : BitVec 4) (data : Word)
  deriving DecidableEq, Repr

/-- A memory access a grant still has to make, with its mark. -/
structure PlannedOp where
  op   : PortOp
  mark : Mark
  deriving DecidableEq, Repr

/-- What a restore step found at its position (R102). -/
inductive Judged where
  | passedOver
  | fault (kind : FaultKind)
  | restorable (addr : Addr) (pre : Word)
  deriving DecidableEq, Repr

/-- What a grant in progress does, with the data its start step fixed. -/
inductive Task where
  | forwardedRead (a : Access)
  /-- `reload` is the writer's context of a write to its own claimed word (R67) -/
  | forwardedWrite (a : Access) (reload : Option CtxNum)
  | journalledWrite (w : Working)
  /-- `wanted` is false once SET_GUARD has rewritten the entry (R118) -/
  | armingRead (entry : Fin 8) (wanted : Bool)
  | commitMarker (ctx : CtxNum)
  /-- `owned` says whether the context holds a claim on the record's word, so that its release is reported
  (R52) -/
  | restore (ctx : CtxNum) (pos : SlotPos) (found : Judged) (owned : Bool)
  | abortMarker (ctx : CtxNum)
  | discardMarker (ctx : CtxNum)
  | freeing (ctx : CtxNum)
  | formatStep
  | survey
  | judgeFinal
  | judgeSegment
  | rebuild
  deriving DecidableEq, Repr

/-- A guard transition that is to raise an event at the end of the grant (R121, R122). -/
structure GuardHit where
  entry   : Fin 8
  make    : Bool
  addr    : Addr
  ctx     : Option CtxNum
  src     : SrcNum
  restore : Bool
  request : Bool
  deriving DecidableEq, Repr

/-- A grant after its start step: its task, the accesses still to make, the guard transitions so far, and the
guard entries whose move a COMMIT sees at the end of this grant alone (R125, R126). -/
structure Grant where
  task : Task
  todo : List PlannedOp
  hits : List GuardHit
  late : List (Fin 8)
  deriving DecidableEq, Repr

/-! ### Stops -/

/-- Reasons for a machine fault.  There are none: the spec gives every command an effect in every state
(a refused access, a refusal status and a FAULTED context are effects). -/
inductive Fault
  deriving DecidableEq, Repr

/-- Reasons to refuse a command. -/
inductive Refusal where
  /-- raised by an arm of `exec` whose command has no meaning yet; safe: the run stops there.  No arm
  raises it. -/
  | notModelled (mnemonic : String)
  deriving DecidableEq, Repr

/-! ### The state -/

/-- The machine. -/
structure State where
  /-- commands waiting, first in first out (the model's own) -/
  pending      : List Instr
  /-- the attached static memory: listed bytes by key, ascending, none equal to `Config.blankByte` -/
  mem          : List Host.Cell
  /-- PFAIL# is asserted (R141) -/
  pfail        : Bool
  /-- the reset is in force (R140) -/
  inReset      : Bool
  /-- HERR is asserted (R59) -/
  herr         : Bool
  /-- HD as driven at the end of the last read (R59) -/
  hd           : Word
  /-- how the last access ended (the model's own, log 9) -/
  lastEnding   : Option Ending
  /-- device mode (R138) -/
  mode         : Mode
  /-- format or recovery work (R143 to R153) -/
  work         : Work
  /-- JBASE (R21) -/
  jbase        : Addr
  /-- NSEG, 0 when unset (R21) -/
  nseg         : Nat
  /-- GEN (R21) -/
  gen          : Byte
  /-- segment pool, head first (R35) -/
  pool         : List Nat
  /-- the seven limits (R161) -/
  limits       : Limits
  /-- context records (R1) -/
  contexts     : Vector Context 8
  /-- source table (R4, R133) -/
  sources      : Vector Source 4
  /-- epoch sequence counter (R9) -/
  epochSeq     : BitVec 16
  /-- Claim Table (R43) -/
  claims       : List Claim
  /-- region table (R61) -/
  regions      : Vector Region 16
  /-- the host access in the part (R58) -/
  access       : Option HostAccess
  /-- holder of the memory port (R76) -/
  holder       : Option Requester
  /-- last holder of the memory port (R76) -/
  lastHolder   : Requester
  /-- the grant in progress, once its start step is made (R74) -/
  grant        : Option Grant
  /-- engine queue, head first (R94) -/
  queue        : List QueueEntry
  /-- record of the head job (R95) -/
  job          : Option Job
  /-- guard entries (R114) -/
  guards       : Vector Guard 8
  /-- refusal counters of each source: CONFLICT, CAPACITY, POLICY (R127) -/
  counters     : Vector (Vector Counter 3) 4
  /-- group settings: CONFLICT, CAPACITY, POLICY (R129) -/
  groups       : Vector GroupSettings 3
  /-- the response bytes of the present frame on SDO, 0x00 after them (R156) -/
  sdo          : List Byte
  /-- the last response (R156) -/
  lastResponse : List Byte
  /-- short-frame count (R157) -/
  shortFrames  : Byte
  /-- event queue, oldest first (R162) -/
  events       : List Event
  /-- event mask, bit k for the kind with code k (R164) -/
  eventMask    : BitVec 16
  /-- event sequence counter (R162) -/
  eventSeq     : Byte
  /-- lost-event count (R162) -/
  lostEvents   : Byte
  /-- selection of STAT0 (R165) -/
  stat0        : Fin 8
  /-- selection of STAT1 (R165) -/
  stat1        : Fin 8
  /-- free values taken so far (the model's own, log 11) -/
  choices      : Nat
  deriving DecidableEq, Repr

/-- A region entry after reset (R61). -/
def Region.reset : Region := ⟨false, .pass, 0#22, 0#22⟩

/-- A guard entry after reset (R114). -/
def Guard.reset : Guard := ⟨false, 0#22, 0#32, 0#32, .onBreak, .note, some 0, .unarmed⟩

/-- A counter after reset (R127, R130). -/
def Counter.reset : Counter := ⟨0#8, false⟩

/-- Group settings after reset (R129). -/
def GroupSettings.reset : GroupSettings := ⟨255#8, .saturate, 0#3⟩

/-- The limits after reset (R161). -/
def Limits.reset : Limits := ⟨16, 64, .refuse, 200, 0, 0, 50⟩

/-- The machine right after reset, with the reset ended and PFAIL# deasserted.  HD, SDO, the input
levels and the memory contents are the model's choices (logs 1, 7, 8, 10). -/
def State.reset : State where
  pending := []
  mem := []
  pfail := false
  inReset := false
  herr := false
  hd := 0#32
  lastEnding := none
  mode := .gated
  work := .idle
  jbase := 0#22
  nseg := 0
  gen := 0#8
  pool := []
  limits := Limits.reset
  contexts := Vector.replicate 8 .free
  sources := Vector.replicate 4 ⟨none, false⟩
  epochSeq := 0#16
  claims := []
  regions := Vector.replicate 16 Region.reset
  access := none
  holder := none
  lastHolder := .ga
  grant := none
  queue := []
  job := none
  guards := Vector.replicate 8 Guard.reset
  counters := Vector.replicate 4 (Vector.replicate 3 Counter.reset)
  groups := Vector.replicate 3 GroupSettings.reset
  sdo := []
  lastResponse := [0x89#8]
  shortFrames := 0#8
  events := []
  eventMask := 0x03FE#16
  eventSeq := 0#8
  lostEvents := 0#8
  stat0 := 0
  stat1 := 5
  choices := 0

end Sys2Proof.Machine
end

