-- ==== Sys2Proof/Machine/Ops.lean ====
section
/-! DEFINITION. The named operations over memory, tables, claims, pool, events, responses and the memory port that every meaning is written with. -/

namespace Sys2Proof.Machine

/-! ### The attached memory: one word per address, four bytes per word (log 2) -/

/-- What the byte with key `k` holds. -/
def Memory.byte : List Host.Cell → Nat → Byte
  | [], _ => Config.blankByte
  | (k', b) :: t, k => if k' = k then b else Memory.byte t k

/-- A byte placed before the first higher key. -/
def Memory.insert (k : Nat) (b : Byte) : List Host.Cell → List Host.Cell
  | [] => [(k, b)]
  | (k', b') :: t => if k < k' then (k, b) :: (k', b') :: t else (k', b') :: Memory.insert k b t

/-- Write one byte; writing the blank value removes the entry, so that equal memories are equal lists. -/
def Memory.putByte (m : List Host.Cell) (k : Nat) (b : Byte) : List Host.Cell :=
  let rest := m.filter (fun c => c.1 != k)
  if b = Config.blankByte then rest else Memory.insert k b rest

/-- The canonical form: keys strictly rising, no entry equal to the blank value. -/
def Memory.wf : List Host.Cell → Bool
  | [] => true
  | (k, b) :: t => b != Config.blankByte && t.all (fun c => k < c.1) && Memory.wf t

/-- The key of byte `i` of the word at `a`. -/
def byteKey (a : Addr) (i : Nat) : Nat := 4 * a.toNat + i

/-- The word at `a`; byte 3 is its most significant byte (00_scope.md). -/
def Memory.word (m : List Host.Cell) (a : Addr) : Word :=
  Memory.byte m (byteKey a 3) ++ Memory.byte m (byteKey a 2) ++ Memory.byte m (byteKey a 1) ++ Memory.byte m (byteKey a 0)

/-- Byte `i` of a word. -/
def byteOf (w : Word) (i : Nat) : Byte := w.extractLsb' (8 * i) 8

/-- Write byte `i` of the word at `a` when its enable is asserted (R67). -/
def Memory.putLane (a : Addr) (be : BitVec 4) (w : Word) (i : Nat) (m : List Host.Cell) : List Host.Cell :=
  if be.getLsbD i then Memory.putByte m (byteKey a i) (byteOf w i) else m

/-- A single-word write with byte enables (R67). -/
def Memory.putWord (m : List Host.Cell) (a : Addr) (be : BitVec 4) (w : Word) : List Host.Cell :=
  Memory.putLane a be w 3 (Memory.putLane a be w 2 (Memory.putLane a be w 1 (Memory.putLane a be w 0 m)))

/-- The old word with each enabled byte replaced by the new word's (R88, R121). -/
def mergeBytes (be : BitVec 4) (old new : Word) : Word :=
  (if be.getLsbD 3 then byteOf new 3 else byteOf old 3) ++ (if be.getLsbD 2 then byteOf new 2 else byteOf old 2) ++
    (if be.getLsbD 1 then byteOf new 1 else byteOf old 1) ++ (if be.getLsbD 0 then byteOf new 0 else byteOf old 0)

/-- The word of the attached memory at `a`. -/
def State.word (s : State) (a : Addr) : Word := Memory.word s.mem a

/-- One memory-side word write. -/
def State.store (s : State) (a : Addr) (be : BitVec 4) (w : Word) : State :=
  { s with mem := Memory.putWord s.mem a be w }

/-! ### Tables -/

/-- The eight indices in ascending order. -/
def eight : List (Fin 8) := [0, 1, 2, 3, 4, 5, 6, 7]

/-- The four source numbers in ascending order. -/
def four : List (Fin 4) := [0, 1, 2, 3]

/-- The sixteen region indices in ascending order. -/
def sixteen : List (Fin 16) := [0, 1, 2, 3, 4, 5, 6, 7, 8, 9, 10, 11, 12, 13, 14, 15]

/-- The record of context `c`. -/
def State.ctx (s : State) (c : CtxNum) : Context := s.contexts[c]

/-- Replace the record of context `c`. -/
def State.setCtx (s : State) (c : CtxNum) (x : Context) : State := { s with contexts := s.contexts.set c x }

/-- The entry of source `i` in the source table. -/
def State.source (s : State) (i : SrcNum) : Source := s.sources[i]

/-- Replace the entry of source `i`. -/
def State.setSource (s : State) (i : SrcNum) (x : Source) : State := { s with sources := s.sources.set i x }

/-- Guard entry `i`. -/
def State.guard (s : State) (i : Fin 8) : Guard := s.guards[i]

/-- Replace guard entry `i`. -/
def State.setGuard (s : State) (i : Fin 8) (g : Guard) : State := { s with guards := s.guards.set i g }

/-- Region entry `i`. -/
def State.region (s : State) (i : Fin 16) : Region := s.regions[i]

/-- The index of a group in the counters and the settings (R127). -/
def Group.index : Group → Fin 3
  | .conflict => 0
  | .capacity => 1
  | .policy => 2

/-- The counter of a source and a group (R127). -/
def State.counter (s : State) (i : SrcNum) (g : Group) : Counter := s.counters[i][g.index]

/-- Replace the counter of a source and a group. -/
def State.setCounter (s : State) (i : SrcNum) (g : Group) (x : Counter) : State :=
  { s with counters := s.counters.set i (s.counters[i].set g.index x) }

/-- The settings of a group (R129). -/
def State.settings (s : State) (g : Group) : GroupSettings := s.groups[g.index]

/-- Replace the settings of a group. -/
def State.setSettings (s : State) (g : Group) (x : GroupSettings) : State :=
  { s with groups := s.groups.set g.index x }

/-- Bind or unbind a source (R4), leaving its fence flag. -/
def State.bind (s : State) (i : SrcNum) (b : Option CtxNum) : State :=
  s.setSource i ⟨b, (s.source i).fenced⟩

/-- Set or clear the fence flag of a source (R133), leaving its binding. -/
def State.setFence (s : State) (i : SrcNum) (f : Bool) : State :=
  s.setSource i ⟨(s.source i).bound, f⟩

/-- The epoch fields of a context, absent in FREE (R1). -/
def Context.epoch : Context → Option Epoch
  | .free => none
  | .active _ e => some e

/-- Whether a context is FREE. -/
def Context.isFree : Context → Bool
  | .free => true
  | .active _ _ => false

/-- Whether a context is OPEN. -/
def Context.isOpen : Context → Bool
  | .active (.opened _) _ => true
  | _ => false

/-- Change the epoch fields of a context, if it has any. -/
def State.mapEpoch (s : State) (c : CtxNum) (f : Epoch → Epoch) : State :=
  match s.ctx c with
  | .free => s
  | .active p e => s.setCtx c (.active p (f e))

/-- Every context FREE and the engine queue empty: the condition whose failure answers BUSY (R63, R154, R161). -/
def State.quiet (s : State) : Bool := eight.all (fun c => (s.ctx c).isFree) && s.queue.isEmpty

/-! ### Claim Table (Chapter 3) -/

/-- The context that claims a word, if any (R45). -/
def State.owner (s : State) (a : Addr) : Option CtxNum :=
  (s.claims.find? (fun k => k.addr == a)).map (·.owner)

/-- The claims held by a context (R44). -/
def State.claimsHeld (s : State) (c : CtxNum) : Nat := s.claims.countP (fun k => k.owner == c)

/-- The occupancy of the Claim Table (R43). -/
def State.occupancy (s : State) : Nat := s.claims.length

/-- Insert a claim.  A word already claimed and a full table are left as they are (R43, R56). -/
def State.insertClaim (s : State) (a : Addr) (c : CtxNum) : State :=
  if (s.owner a).isSome || decide (Config.claimCapacity ≤ s.occupancy) then s
  else { s with claims := ⟨a, c⟩ :: s.claims }

/-- Release the claim on `a` owned by `c`; a claim of another context stays (R50). -/
def State.releaseClaim (s : State) (a : Addr) (c : CtxNum) : State :=
  { s with claims := s.claims.filter (fun k => !(k.addr == a && k.owner == c)) }

/-- Release every claim of `c` in one step (R51). -/
def State.releaseAll (s : State) (c : CtxNum) : State :=
  { s with claims := s.claims.filter (fun k => !(k.owner == c)) }

/-- The addresses that `c` claims: what a batch release reports (R52). -/
def State.claimedBy (s : State) (c : CtxNum) : List Addr :=
  (s.claims.filter (fun k => k.owner == c)).map (·.addr)

/-! ### Event queue (R162) -/

/-- The code of an event kind (R167). -/
def EventKind.code : EventKind → Nat
  | .committed => 1
  | .rolledBack => 2
  | .faulted => 3
  | .discarded => 4
  | .guard => 5
  | .threshold => 6
  | .lowWater => 7
  | .recoveryDone => 8
  | .formatDone => 9

/-- One more, staying at 255 (R157, R162). -/
def saturate (b : Byte) : Byte := if b = 255#8 then b else b + 1#8

/-- A block raises an event (R162): a disabled kind is not raised; a full queue drops the record, counts
it as lost and still takes a sequence number. -/
def State.raise (s : State) (kind : EventKind) (ctx : Option CtxNum) (src : Option SrcNum) (code : Option Byte)
    (count : BitVec 16) (addr : Option Addr) : State :=
  if s.eventMask.getLsbD kind.code then
    if s.events.length < Config.eventCapacity then
      { s with events := s.events ++ [⟨kind, s.eventSeq, ctx, src, code, s.mode, count, addr⟩],
               eventSeq := s.eventSeq + 1#8 }
    else { s with eventSeq := s.eventSeq + 1#8, lostEvents := saturate s.lostEvents }
  else s

/-! ### Segment pool (R35 to R37, R42) -/

/-- Raise LOW_WATER when a taking has lowered the free count from `before` across LOWWATER (R42). -/
def State.lowWater (s : State) (before : Nat) : State :=
  if s.limits.lowwater ≤ before ∧ s.pool.length < s.limits.lowwater then
    s.raise .lowWater none none none (BitVec.ofNat 16 s.pool.length) none
  else s

/-- Return segments to the tail of the pool (R37). -/
def State.returnSegs (s : State) (segs : List Nat) : State := { s with pool := s.pool ++ segs }

/-! ### Ending an access (R59) -/

/-- The access ends DONE: HWAIT and HERR deasserted. -/
def State.endDone (s : State) : State :=
  { s with access := none, herr := false, lastEnding := some .done }

/-- The access ends DONE with a word on HD. -/
def State.endRead (s : State) (w : Word) : State := { s.endDone with hd := w }

/-- The access ends REFUSED on the bus: HERR asserted, and 0 on HD for a read. -/
def State.endRefused (s : State) (a : Access) (k : RefusalKind) : State :=
  { s with access := none, herr := true, hd := if a.write then s.hd else 0#32, lastEnding := some (.refused k) }

/-! ### Responses (R156) -/

/-- The statuses of R159. -/
inductive Status where
  | ok | accepted | badOpcode | badArgument | wrongMode | busy | wrongState | alreadyOpen | noContext | noSegment
  | guardHeld | empty | fenced
  deriving DecidableEq, Repr

/-- The status byte (R159). -/
def Status.code : Status → Byte
  | .ok => 0x00#8
  | .accepted => 0x01#8
  | .badOpcode => 0x80#8
  | .badArgument => 0x81#8
  | .wrongMode => 0x82#8
  | .busy => 0x83#8
  | .wrongState => 0x84#8
  | .alreadyOpen => 0x85#8
  | .noContext => 0x86#8
  | .noSegment => 0x87#8
  | .guardHeld => 0x88#8
  | .empty => 0x89#8
  | .fenced => 0x8A#8

/-- Compose a response: it is sent, and becomes the last response (R156). -/
def State.respond (s : State) (st : Status) (result : List Byte) : State :=
  { s with sdo := st.code :: result, lastResponse := st.code :: result }

/-- A refusal: the status byte alone (R156). -/
def State.answer (s : State) (st : Status) : State := s.respond st []

/-- A frame reaches the part only while no reset is in force (R140). -/
def State.frame (s : State) (f : State → State) : State := if s.inReset then s else f s

/-! ### The memory port (R74 to R77) -/

/-- Whether any guard entry is ARMING (R118). -/
def State.anyArming (s : State) : Bool := eight.any (fun i => (s.guard i).state == .arming)

/-- Whether the format or recovery work itself has a step to do (R75). -/
def Work.hasStep : Work → Bool
  | .idle => false
  | .format _ => true
  | .survey _ _ => true
  | .judge _ _ => true
  | .replay _ => false
  | .rebuild _ left => !left.isEmpty

/-- Whether a requester waits (R75).  A requester being served does not. -/
def State.waits (s : State) (r : Requester) : Bool :=
  s.holder != some r &&
  match r with
  | .hp =>
    match s.access with
    | some ⟨_, .toMemory _, _⟩ => true
    | _ => false
  | .be =>
    match s.mode with
    | .run => !s.queue.isEmpty
    | .formatting => s.work.hasStep
    | .recovering => !s.queue.isEmpty || s.work.hasStep
    | .gated => false
    | .frozen => false
  | .ga => s.anyArming

/-- The cyclic order HP, BE, GA, HP from the requester after the last holder (R76). -/
def Requester.order : Requester → List Requester
  | .hp => [.be, .ga, .hp]
  | .be => [.ga, .hp, .be]
  | .ga => [.hp, .be, .ga]

/-- The arbiter decides: a free port goes to the first waiting requester after the last holder; in
FROZEN and while a reset is in force no grant starts (R76, R77, R140). -/
def State.arbitrate (s : State) : State :=
  if s.holder.isSome || s.mode == .frozen || s.inReset then s
  else
    match s.lastHolder.order.find? s.waits with
    | some r => { s with holder := some r }
    | none => s

/-- The grant ends and the port falls free (R76). -/
def State.freePort (s : State) : State :=
  { s with holder := none, grant := none, lastHolder := s.holder.getD s.lastHolder }

end Sys2Proof.Machine
end

