-- ==== Sys2Proof/Machine/Records.lean ====
section
/-! DEFINITION. Journal records: layout, check word, the tests applied to slots, and the memory writes that make a record (Chapter 2, R166). -/

namespace Sys2Proof.Machine

/-- The word address of word `i` of slot `k` of segment `n` (R23). -/
def State.slotAddr (s : State) (n k i : Nat) : Addr :=
  BitVec.ofNat 22 (s.jbase.toNat + Config.segmentWords * n + Config.slotWords * k + i)

/-- Whether an address lies in the journal window (R22).  While NSEG is unset there is none. -/
def State.inWindow (s : State) (a : Addr) : Bool :=
  decide (s.jbase.toNat ≤ a.toNat) && decide (a.toNat < s.jbase.toNat + Config.segmentWords * s.nseg)

/-- The code of a record kind (R26). -/
def RecordKind.code : RecordKind → BitVec 4
  | .blank => 0#4
  | .header => 1#4
  | .pre => 2#4
  | .restored => 3#4
  | .commit => 4#4
  | .abort => 5#4
  | .released => 6#4

/-- The four words of a slot. -/
structure Record where
  w0 : Word
  w1 : Word
  w2 : Word
  w3 : Word
  deriving DecidableEq, Repr

/-- The descriptor (R27, R166). -/
def descriptor (kind : RecordKind) (gen : Byte) (idx slot : Nat) (ctx : CtxNum) (src : SrcNum) : Word :=
  kind.code ++ gen ++ BitVec.ofNat 8 idx ++ BitVec.ofNat 4 slot ++ BitVec.ofNat 3 ctx.val ++ BitVec.ofNat 2 src.val ++ 0#3

/-- The kind code of a descriptor, bits 31 to 28 (R166). -/
def kindField (w0 : Word) : BitVec 4 := w0.extractLsb' 28 4
/-- The generation, bits 27 to 20. -/
def genField (w0 : Word) : Byte := w0.extractLsb' 20 8
/-- The chain index, bits 19 to 12. -/
def idxField (w0 : Word) : Nat := (w0.extractLsb' 12 8).toNat
/-- The slot, bits 11 to 8. -/
def slotField (w0 : Word) : Nat := (w0.extractLsb' 8 4).toNat
/-- The context, bits 7 to 5. -/
def ctxField (w0 : Word) : CtxNum := (w0.extractLsb' 5 3).toFin
/-- The source, bits 4 to 3. -/
def srcField (w0 : Word) : SrcNum := (w0.extractLsb' 3 2).toFin
/-- The epoch sequence, bits 31 to 16 of word 3. -/
def seqField (w3 : Word) : BitVec 16 := w3.extractLsb' 16 16
/-- The check, bits 15 to 0 of word 3. -/
def checkField (w3 : Word) : BitVec 16 := w3.extractLsb' 0 16
/-- The word address of a PRE or RESTORED record, bits 21 to 0 of word 1. -/
def addrField (w1 : Word) : Addr := w1.extractLsb' 0 22
/-- The PRE record count of a marker, bits 15 to 0 of word 1. -/
def countField (w1 : Word) : Nat := (w1.extractLsb' 0 16).toNat

/-! ### The check word (R30) -/

/-- One bit of the cyclic redundancy division by x^16 + x^12 + x^5 + 1 (R30). -/
def crcBit (c : BitVec 16) (b : Bool) : BitVec 16 :=
  if c.msb != b then (c <<< 1) ^^^ 0x1021#16 else c <<< 1

/-- `n` bits of a value, from bit `n - 1` down to bit 0. -/
def crcBits {w : Nat} (x : BitVec w) : Nat → BitVec 16 → BitVec 16
  | 0, c => c
  | n + 1, c => crcBits x n (crcBit c (x.getLsbD n))

/-- The check over word 0 with the kind as first written, word 1, word 2 and the epoch sequence, most
significant bit first (R30). -/
def crc (w0 w1 w2 : Word) (seq : BitVec 16) : BitVec 16 :=
  crcBits seq 16 (crcBits w2 32 (crcBits w1 32 (crcBits w0 32 0xFFFF#16)))

/-- The kind as first written (R31). -/
def firstKind (k : BitVec 4) : BitVec 4 :=
  if k = RecordKind.restored.code then RecordKind.pre.code
  else if k = RecordKind.released.code then RecordKind.header.code
  else k

/-- A descriptor with another kind and every other bit kept (R29). -/
def withKind (k : BitVec 4) (w0 : Word) : Word := k ++ w0.extractLsb' 0 28

/-- Whether a slot passes its check (R31). -/
def Record.passes (r : Record) : Bool :=
  decide ((kindField r.w0).toNat ≤ 6) &&
    crc (withKind (firstKind (kindField r.w0)) r.w0) r.w1 r.w2 (seqField r.w3) == checkField r.w3

/-- A complete new record: its check is computed from the values to be written (R30). -/
def newRecord (w0 w1 w2 : Word) (seq : BitVec 16) : Record := ⟨w0, w1, w2, seq ++ crc w0 w1 w2 seq⟩

/-- Whether a slot is of a kind. -/
def Record.isKind (r : Record) (k : RecordKind) : Bool := kindField r.w0 == k.code

/-- The record that memory holds in slot `k` of segment `n`. -/
def State.slot (s : State) (n k : Nat) : Record :=
  ⟨s.word (s.slotAddr n k 0), s.word (s.slotAddr n k 1), s.word (s.slotAddr n k 2), s.word (s.slotAddr n k 3)⟩

/-- The live-header test of slot 0 of segment `n` (R32). -/
def Record.liveHeader (r : Record) (gen : Byte) (n : Nat) : Bool :=
  r.passes && r.isKind .header && genField r.w0 == gen && slotField r.w0 == 0 && r.w1 == BitVec.ofNat 32 n

/-- The identity of an epoch's records in one segment (R32). -/
structure Identity where
  gen : Byte
  ctx : CtxNum
  src : SrcNum
  idx : Nat
  seq : BitVec 16
  deriving DecidableEq, Repr

/-- Whether slot `k` belongs to the epoch (R32).  It does not depend on the check. -/
def Record.belongs (r : Record) (e : Identity) (k : Nat) : Bool :=
  (r.isKind .pre || r.isKind .restored || r.isKind .commit || r.isKind .abort) &&
    genField r.w0 == e.gen && ctxField r.w0 == e.ctx && srcField r.w0 == e.src && idxField r.w0 == e.idx &&
    slotField r.w0 == k && seqField r.w3 == e.seq

/-! ### Records the part writes (R28) -/

/-- All four byte enables. -/
def allBytes : BitVec 4 := 0xF#4

/-- The BLANK record (R143). -/
def blankRecord (gen : Byte) : Record := newRecord (descriptor .blank gen 0 0 0 0) 0#32 0#32 0#16

/-- The HEADER record of segment `seg` (R85). -/
def headerRecord (gen : Byte) (ctx : CtxNum) (src : SrcNum) (idx seg : Nat) (seq : BitVec 16) : Record :=
  newRecord (descriptor .header gen idx 0 ctx src) (BitVec.ofNat 32 seg) 0#32 seq

/-- The PRE record (R86). -/
def preRecord (gen : Byte) (ctx : CtxNum) (src : SrcNum) (idx slot : Nat) (seq : BitVec 16) (a : Addr) (pre : Word) :
    Record :=
  newRecord (descriptor .pre gen idx slot ctx src) (a.setWidth 32) pre seq

/-- A marker: COMMIT, or ABORT with its discard flag in word 2 (R97, R105, R109). -/
def markerRecord (kind : RecordKind) (flag : Word) (gen : Byte) (ctx : CtxNum) (src : SrcNum) (idx slot : Nat)
    (seq : BitVec 16) (count : Nat) : Record :=
  newRecord (descriptor kind gen idx slot ctx src) ((BitVec.ofNat 16 count).setWidth 32) flag seq

/-- A memory access without a mark. -/
def PortOp.plain (op : PortOp) : PlannedOp := ⟨op, .quiet⟩

/-- The four writes of a new record in slot `k` of segment `n`, in the order word 1, word 2, word 3,
word 0; the mark falls with word 0 (R33). -/
def State.recordWrites (s : State) (n k : Nat) (r : Record) (mark : Mark) : List PlannedOp :=
  [(PortOp.write (s.slotAddr n k 1) allBytes r.w1).plain,
   (PortOp.write (s.slotAddr n k 2) allBytes r.w2).plain,
   (PortOp.write (s.slotAddr n k 3) allBytes r.w3).plain,
   ⟨PortOp.write (s.slotAddr n k 0) allBytes r.w0, mark⟩]

/-- The four reads of a slot. -/
def State.slotReads (s : State) (n k : Nat) : List PlannedOp :=
  [(PortOp.read (s.slotAddr n k 0)).plain, (PortOp.read (s.slotAddr n k 1)).plain,
   (PortOp.read (s.slotAddr n k 2)).plain, (PortOp.read (s.slotAddr n k 3)).plain]

/-- The reads of the slots `k` to `k + n - 1` of a segment, in ascending order. -/
def State.slotsReads (s : State) (seg k : Nat) : Nat → List PlannedOp
  | 0 => []
  | n + 1 => s.slotReads seg k ++ s.slotsReads seg (k + 1) n

end Sys2Proof.Machine
end

