-- ==== Sys2Proof/Machine/Operands.lean ====
section
/-! DEFINITION. The operand forms of the management port: the range check of each argument field, and the byte layouts of results (R160, R161, R167, R168). -/

namespace Sys2Proof.Machine

/-! ### Argument fields: `none` where the value is outside its range (R168) -/

/-- A context number, 0 to 7. -/
def asCtx (b : Byte) : Option CtxNum := if h : b.toNat < 8 then some ⟨b.toNat, h⟩ else none

/-- A source number, 0 to 3. -/
def asSource (b : Byte) : Option SrcNum := if h : b.toNat < 4 then some ⟨b.toNat, h⟩ else none

/-- A guard index or a STAT selection, 0 to 7. -/
def asEight (b : Byte) : Option (Fin 8) := if h : b.toNat < 8 then some ⟨b.toNat, h⟩ else none

/-- A region index, 0 to 15. -/
def asSixteen (b : Byte) : Option (Fin 16) := if h : b.toNat < 16 then some ⟨b.toNat, h⟩ else none

/-- A word address, at most 0x3FFFFF. -/
def asAddr (x : WideAddr) : Option Addr := if x.toNat ≤ 0x3FFFFF then some (x.setWidth 22) else none

/-- A flag, 0 or 1. -/
def asBool (b : Byte) : Option Bool := if b = 0#8 then some false else if b = 1#8 then some true else none

/-- A region mode (R61). -/
def asRegionMode (b : Byte) : Option RegionMode :=
  if b = 0#8 then some .pass else if b = 1#8 then some .journal else if b = 2#8 then some .journalRequired
  else if b = 3#8 then some .readonly else none

/-- A guard trigger (R114). -/
def asTrigger (b : Byte) : Option Trigger :=
  if b = 0#8 then some .onBreak else if b = 1#8 then some .onMake else if b = 2#8 then some .onBoth else none

/-- A guard action (R114). -/
def asAction (b : Byte) : Option GuardAction :=
  if b = 0#8 then some .note else if b = 1#8 then some .rollbackWriter else if b = 2#8 then some .holdCommit else none

/-- A guard's bound field: 0 to 7, or 8 for ANY (R114). -/
def asBound (b : Byte) : Option (Option CtxNum) := if b = 8#8 then some none else (asCtx b).map some

/-- A JFULL policy (R81). -/
def asJFull (b : Byte) : Option JFull :=
  if b = 0#8 then some .hold else if b = 1#8 then some .refuse else if b = 2#8 then some .abort else none

/-- A refusal group (R127). -/
def asGroup (b : Byte) : Option Group :=
  if b = 0#8 then some .conflict else if b = 1#8 then some .capacity else if b = 2#8 then some .policy else none

/-- A counter hold mode (R128). -/
def asHoldMode (b : Byte) : Option HoldMode :=
  if b = 0#8 then some .saturate else if b = 1#8 then some .roll else none

/-- The arguments of SET_REGION after the index (R63): `none` where any is out of range or base is
greater than limit. -/
def asRegion (enable mode : Byte) (base limit : WideAddr) : Option Region := do
  let e ← asBool enable
  let m ← asRegionMode mode
  let b ← asAddr base
  let l ← asAddr limit
  if b.toNat ≤ l.toNat then some ⟨e, m, b, l⟩ else none

/-- The arguments of SET_GUARD after the index (R116), with the state the taken command gives the entry. -/
def asGuard (enable : Byte) (addr : WideAddr) (expected mask : Word) (trigger action bound : Byte) : Option Guard := do
  let e ← asBool enable
  let a ← asAddr addr
  let t ← asTrigger trigger
  let act ← asAction action
  let b ← asBound bound
  some ⟨e, a, expected, mask, t, act, b, if e then .arming else .unarmed⟩

/-- The seven values of SET_LIMITS (R161). -/
def asLimits (qseg qclm : BitVec 16) (jfull : Byte) (holdlim idlelim : BitVec 16) (lowwater tbdiv : Byte) :
    Option Limits := do
  let j ← asJFull jfull
  if 1 ≤ qseg.toNat ∧ qseg.toNat ≤ 256 ∧ 1 ≤ qclm.toNat ∧ qclm.toNat ≤ 512 ∧ 1 ≤ holdlim.toNat ∧
      holdlim.toNat ≤ 4095 ∧ 1 ≤ tbdiv.toNat then
    some ⟨qseg.toNat, qclm.toNat, j, holdlim.toNat, idlelim.toNat, lowwater.toNat, tbdiv.toNat⟩
  else none

/-- The arguments of SET_GEOMETRY (R21). -/
def asGeometry (jbase : WideAddr) (nseg : BitVec 16) : Option (Addr × Nat) := do
  let j ← asAddr jbase
  if j.toNat % 64 = 0 ∧ 16 ≤ nseg.toNat ∧ nseg.toNat ≤ 256 ∧
      j.toNat + nseg.toNat * Config.segmentWords ≤ Config.memoryWords then
    some (j, nseg.toNat)
  else none

/-- The settings of SET_ACCOUNTING (R129). -/
def asSettings (threshold holdMode actions : Byte) : Option GroupSettings := do
  let h ← asHoldMode holdMode
  if threshold ≠ 0#8 ∧ actions.toNat ≤ 7 then some ⟨threshold, h, actions.setWidth 3⟩ else none

/-! ### Codes in results -/

/-- The code of a device mode (R138). -/
def Mode.code : Mode → Byte
  | .gated => 0#8
  | .formatting => 1#8
  | .recovering => 2#8
  | .run => 3#8
  | .frozen => 4#8

/-- The code of a cause (R3). -/
def Cause.code : Cause → Byte
  | .abortCmd => 1#8
  | .idle => 2#8
  | .guard => 3#8
  | .capacity => 4#8
  | .threshold => 5#8
  | .recovery => 6#8

/-- The code of a context state (R3). -/
def Context.stateCode : Context → Byte
  | .free => 0#8
  | .active (.opened _) _ => 1#8
  | .active .committing _ => 2#8
  | .active (.rollingBack _) _ => 3#8
  | .active (.faulted _ _) _ => 4#8
  | .active .discarding _ => 5#8

/-- The code of a fault kind (R3). -/
def FaultKind.code : FaultKind → Byte
  | .check => 1#8
  | .foreign => 2#8
  | .short => 3#8
  | .chain => 4#8

/-- The code of a fault origin (R3). -/
def FaultOrigin.code : FaultOrigin → Byte
  | .live => 0#8
  | .recovery => 1#8

/-- The code of a region mode (R61). -/
def RegionMode.code : RegionMode → Byte
  | .pass => 0#8
  | .journal => 1#8
  | .journalRequired => 2#8
  | .readonly => 3#8

/-- The code of a trigger (R114). -/
def Trigger.code : Trigger → Byte
  | .onBreak => 0#8
  | .onMake => 1#8
  | .onBoth => 2#8

/-- The code of a guard action (R114). -/
def GuardAction.code : GuardAction → Byte
  | .note => 0#8
  | .rollbackWriter => 1#8
  | .holdCommit => 2#8

/-- The code of a guard state (R114). -/
def GuardState.code : GuardState → Byte
  | .unarmed => 0#8
  | .arming => 1#8
  | .isMatch => 2#8
  | .isMismatch => 3#8

/-- The code of a JFULL policy (R81). -/
def JFull.code : JFull → Byte
  | .hold => 0#8
  | .refuse => 1#8
  | .abort => 2#8

/-- The code of a counter hold mode (R128). -/
def HoldMode.code : HoldMode → Byte
  | .saturate => 0#8
  | .roll => 1#8

/-- A yes-or-no field (R168). -/
def flagByte (b : Bool) : Byte := if b then 1#8 else 0#8

/-- A one-byte number. -/
def byte1 (n : Nat) : Byte := BitVec.ofNat 8 n

/-- A two-byte number, most significant byte first. -/
def num16 (n : Nat) : List Byte := be16 (BitVec.ofNat 16 n)

/-- A word address in three bytes. -/
def addr24 (a : Addr) : List Byte := be24 (a.setWidth 24)

/-- A one-byte field that may be absent: all ones then (R168). -/
def orNone (o : Option Byte) : Byte := o.getD 0xFF#8

/-- A two-byte field that may be absent: all ones then (R168). -/
def orNone16 (o : Option Nat) : List Byte := (o.map num16).getD [0xFF#8, 0xFF#8]

/-! ### Results -/

/-- The 12 bytes of an event record (R167). -/
def Event.bytes (e : Event) : List Byte :=
  [byte1 e.kind.code, e.seq, orNone (e.ctx.map fun c => byte1 c.val), orNone (e.src.map fun i => byte1 i.val),
   orNone e.code, e.mode.code] ++ be16 e.count ++
  (match e.addr with
   | some a => be32 (a.setWidth 32)
   | none => [0xFF#8, 0xFF#8, 0xFF#8, 0xFF#8])

/-- The 11 bytes of GET_LIMITS (R161). -/
def Limits.bytes (l : Limits) : List Byte :=
  num16 l.qseg ++ num16 l.qclm ++ [l.jfull.code] ++ num16 l.holdlim ++ num16 l.idlelim ++ [byte1 l.lowwater, byte1 l.tbdiv]

/-- The 8 bytes of GET_REGION (R63). -/
def Region.bytes (r : Region) : List Byte := [flagByte r.enable, r.mode.code] ++ addr24 r.base ++ addr24 r.limit

/-- The 16 bytes of GET_GUARD (R117). -/
def Guard.bytes (g : Guard) : List Byte :=
  [flagByte g.enable] ++ addr24 g.addr ++ be32 g.expected ++ be32 g.mask ++
  [g.trigger.code, g.action.code, (g.bound.map fun c => byte1 c.val).getD 8#8, g.state.code]

/-- The 16 bytes of GET_COUNTERS (R137). -/
def State.counterBytes (s : State) (i : SrcNum) : List Byte :=
  [(s.counter i .conflict).value, flagByte (s.counter i .conflict).reached,
   (s.counter i .capacity).value, flagByte (s.counter i .capacity).reached,
   (s.counter i .policy).value, flagByte (s.counter i .policy).reached,
   flagByte (s.source i).fenced,
   (s.settings .conflict).threshold, (s.settings .conflict).holdMode.code, (s.settings .conflict).actions.setWidth 8,
   (s.settings .capacity).threshold, (s.settings .capacity).holdMode.code, (s.settings .capacity).actions.setWidth 8,
   (s.settings .policy).threshold, (s.settings .policy).holdMode.code, (s.settings .policy).actions.setWidth 8]

/-- The cause, present in ROLLING_BACK and FAULTED (R1). -/
def Context.cause : Context → Option Cause
  | .active (.rollingBack k) _ => some k
  | .active (.faulted k _) _ => some k
  | _ => none

/-- The fault fields, present in FAULTED (R1). -/
def Context.fault : Context → Option FaultInfo
  | .active (.faulted _ f) _ => some f
  | _ => none

/-- Idle remaining, present in OPEN while a timer runs (R1). -/
def Context.idle : Context → Option Idle
  | .active (.opened t) _ => t
  | _ => none

/-- The position of a context in the engine queue, 1 for the head (R20). -/
def queuePos : List QueueEntry → CtxNum → Option Nat
  | [], _ => none
  | q :: t, c => if q.ctx = c then some 1 else (queuePos t c).map (· + 1)

/-- The 29 bytes of GET_CONTEXT (R20, R168).  Fields absent in the context's state are all ones, idle
remaining is 0 when absent. -/
def State.contextBytes (s : State) (c : CtxNum) : List Byte :=
  let x := s.ctx c
  let e := x.epoch
  let f := x.fault
  let p := f.bind (·.pos)
  [byte1 c.val, x.stateCode, orNone (e.map fun e => byte1 e.source.val)] ++
  orNone16 (e.map fun e => e.seq.toNat) ++
  [orNone (x.cause.map (·.code))] ++
  orNone16 (e.map fun e => e.chain.length) ++
  orNone16 (e.bind fun e => e.chain.head?.map (·.seg)) ++
  orNone16 (e.bind fun e => e.chain.getLast?.map (·.seg)) ++
  [orNone (e.map fun e => byte1 e.fill), orNone (e.map fun e => flagByte e.headerWritten),
   orNone (e.map fun e => flagByte e.markerWritten)] ++
  orNone16 (e.map fun _ => s.claimsHeld c) ++
  orNone16 (e.map fun e => e.preWritten) ++
  orNone16 (e.map fun e => e.restored) ++
  num16 ((x.idle.map (·.ms)).getD 0) ++
  [orNone ((queuePos s.queue c).map byte1), orNone (f.map (·.kind.code)), orNone (f.map (·.origin.code))] ++
  orNone16 (p.map (·.seg)) ++
  [orNone (p.map fun p => byte1 p.slot)]

end Sys2Proof.Machine
end

