-- ==== Sys2Proof/Machine/Flags.lean ====
section
/-! DEFINITION. Signals and status fields that follow the state: HWAIT, IRQ#, SDO, the STAT lines and the 23 bytes of GET_STATUS. -/

namespace Sys2Proof.Machine

/-- HWAIT is asserted while an access is in the part (R58). -/
def State.hwait (s : State) : Bool := s.access.isSome

/-- IRQ# is asserted while the event queue holds a record (R163). -/
def State.irq (s : State) : Bool := !s.events.isEmpty

/-- Byte `k` that SCK clocks out on SDO after the execution point: 0x00 beyond the response (R156). -/
def State.outByte (s : State) (k : Nat) : Byte := s.sdo.getD k 0x00#8

/-- Byte `k` on SDO in the frame of command `c`, from the fall of SEL#, when `s` is the state that `c` left: 0x00
while the opcode and the arguments are shifted in (R155), then the response (R156). -/
def State.frameByte (s : State) (c : Instr) (k : Nat) : Byte :=
  match encodeFrame c with
  | some bytes => if k < bytes.length then 0x00#8 else s.outByte (k - bytes.length)
  | none => 0x00#8

/-- The condition a STAT selection names (R165). -/
def State.statCondition (s : State) (sel : Fin 8) : Bool :=
  match sel with
  | 0 => s.mode == .run
  | 1 => eight.any (fun c => !(s.ctx c).isFree)
  | 2 => decide (s.pool.length < s.limits.lowwater)
  | 3 => four.any (fun i => (s.source i).fenced)
  | 4 => !s.events.isEmpty
  | 5 => !s.queue.isEmpty
  | 6 => s.mode == .frozen
  | 7 => false

/-- The level of STAT0 (R165). -/
def State.stat0Level (s : State) : Bool := s.statCondition s.stat0

/-- The level of STAT1 (R165). -/
def State.stat1Level (s : State) : Bool := s.statCondition s.stat1

/-- Bit n set for context n not FREE (R160). -/
def State.notFreeBits (s : State) : Byte :=
  eight.foldl (fun b c => if (s.ctx c).isFree then b else b ||| (1#8 <<< c.val)) 0#8

/-- Bit i set for source i fenced (R160). -/
def State.fencedBits (s : State) : Byte :=
  four.foldl (fun b i => if (s.source i).fenced then b ||| (1#8 <<< i.val) else b) 0#8

/-- The 23 bytes of GET_STATUS (R160). -/
def State.statusBytes (s : State) : List Byte :=
  [s.mode.code] ++ be16 s.epochSeq ++ num16 s.occupancy ++ num16 s.pool.length ++ addr24 s.jbase ++ num16 s.nseg ++
  [s.gen, byte1 s.events.length, s.lostEvents, s.shortFrames, byte1 s.queue.length, s.notFreeBits, s.fencedBits, s.eventSeq] ++
  be16 s.eventMask ++ [BitVec.ofNat 8 (16 * s.stat1.val + s.stat0.val)]

end Sys2Proof.Machine
end

