-- ==== Sys2Proof/Machine/Epochs.lean ====
section
/-! DEFINITION. What the Context Table does with an epoch: leaving OPEN, taking a rollback request, the idle timer (Chapter 1). -/

namespace Sys2Proof.Machine

/-- An idle timer loaded with IDLELIM, if that is not 0 (R7, R12). -/
def State.freshIdle (s : State) : Option Idle :=
  if s.limits.idlelim = 0 then none else some ⟨s.limits.idlelim, 0⟩

/-- Reload the idle timer of a context that is OPEN, if IDLELIM is not 0 (R12). -/
def State.reloadIdle (s : State) (c : CtxNum) : State :=
  match s.ctx c with
  | .active (.opened _) e => if s.limits.idlelim = 0 then s else s.setCtx c (.active (.opened s.freshIdle) e)
  | _ => s

/-- Whether the epoch of a context is empty: it holds no claim (R17). -/
def State.isEmptyEpoch (s : State) (c : CtxNum) : Bool := s.claimsHeld c == 0

/-- Add a context at the tail of the engine queue (R94). -/
def State.enqueue (s : State) (c : CtxNum) (resume : Option SlotPos) : State :=
  { s with queue := s.queue ++ [⟨c, resume⟩] }

/-- The empty epoch `e` of context `c` is freed at once: its segments return to the pool tail, the
context becomes FREE and its source unbound (R17). -/
def State.freeEmpty (s : State) (c : CtxNum) (e : Epoch) : State :=
  ((s.returnSegs (e.chain.map (·.seg))).setCtx c .free).bind e.source none

/-- A context leaves OPEN for a job: its phase is replaced, its source unbound, and it joins the engine
queue; the idle timer goes with the OPEN phase (R15, R16). -/
def State.leaveOpen (s : State) (c : CtxNum) (e : Epoch) (p : Phase) : State :=
  ((s.setCtx c (.active p e)).bind e.source none).enqueue c none

/-- The Context Table takes a rollback request (R16, R17).  Only an OPEN context is affected. -/
def State.takeRollback (s : State) (c : CtxNum) (k : Cause) : State :=
  match s.ctx c with
  | .active (.opened _) e =>
    if s.isEmptyEpoch c then
      (s.freeEmpty c e).raise .rolledBack (some c) (some e.source) (some k.code) 0#16 none
    else s.leaveOpen c e (.rollingBack k)
  | _ => s

/-- The Context Table takes an accepted COMMIT of an OPEN context (R15, R17). -/
def State.takeCommit (s : State) (c : CtxNum) : State :=
  match s.ctx c with
  | .active (.opened _) e =>
    if s.isEmptyEpoch c then (s.freeEmpty c e).raise .committed (some c) (some e.source) none 0#16 none
    else s.leaveOpen c e .committing
  | _ => s

/-- The lowest-numbered FREE context (R7). -/
def State.freeContext (s : State) : Option CtxNum := eight.find? (fun c => (s.ctx c).isFree)

/-- A taken OPEN: context `c`, segment `seg` from the pool head, the rest of the pool left (R7). -/
def State.openWith (s : State) (c : CtxNum) (i : SrcNum) (seg : Nat) (rest : List Nat) : State :=
  let e : Epoch := ⟨i, s.epochSeq, [⟨seg, 0⟩], 1, false, 0, 0, false⟩
  let t := ({ s with pool := rest, epochSeq := s.epochSeq + 1#16 }.setCtx c (.active (.opened s.freshIdle) e)).bind i (some c)
  t.lowWater s.pool.length

end Sys2Proof.Machine
end

