-- ==== Sys2Proof/Machine/Accounting.lean ====
section
/-! DEFINITION. Refusal Accounting: groups, increments, thresholds and fences (Chapter 8). -/

namespace Sys2Proof.Machine

/-- The group in which a hold reason counts (R71). -/
def HoldReason.group : HoldReason → Group
  | .conflict => .conflict
  | .claimFull => .capacity
  | .journalFull => .capacity

/-- The group in which a refusal kind is counted; GATED and FROZEN are not (R73, R127). -/
def RefusalKind.group : RefusalKind → Option Group
  | .gated => none
  | .frozen => none
  | .journalWindow => some .policy
  | .readonly => some .policy
  | .noEpoch => some .policy
  | .fenced => some .policy
  | .conflict => some .conflict
  | .journalFull => some .capacity
  | .claimFull => some .capacity
  | .quota => some .capacity
  | .holdExpired r => some r.group
  | .lockedWord => some .conflict

/-- The number of a group (R127). -/
def Group.number (g : Group) : Byte := byte1 g.index.val

/-- The action mask's bits: IRQ, FENCE, ABORT (R129). -/
def GroupSettings.irq (g : GroupSettings) : Bool := g.actions.getLsbD 0
/-- FENCE in the action mask. -/
def GroupSettings.fence (g : GroupSettings) : Bool := g.actions.getLsbD 1
/-- ABORT in the action mask. -/
def GroupSettings.abort (g : GroupSettings) : Bool := g.actions.getLsbD 2

/-- The value of a counter after an increment (R128). -/
def nextCount (m : HoldMode) (v : Byte) : Byte :=
  if v = 255#8 then (match m with | .saturate => 255#8 | .roll => 0#8) else v + 1#8

/-- Whether an increment is judged against the threshold (R128). -/
def isJudged (m : HoldMode) (v : Byte) : Bool := v != 255#8 || m == .roll

/-- Whether counting one more refusal of a source in a group reaches the threshold (R130). -/
def State.reaches (s : State) (i : SrcNum) (g : Group) : Bool :=
  isJudged (s.settings g).holdMode (s.counter i g).value &&
    nextCount (s.settings g).holdMode (s.counter i g).value == (s.settings g).threshold

/-- The rollback request of the ABORT action, for the context that the lookup of the source's binding gave
(R132). -/
def State.thresholdAbort (s : State) (bound : Option CtxNum) : State :=
  match bound with
  | some c => s.takeRollback c .threshold
  | none => s

/-- The code of a THRESHOLD event (R131). -/
def thresholdCode (g : Group) (fence request : Bool) : Byte :=
  g.number + (if fence then 4#8 else 0#8) + (if request then 8#8 else 0#8)

/-- The threshold is reached: fence, abort and event, in this order; the flag is set with the counter
(R130).  `bound` is the source's binding as the ABORT action looks it up; the event names the context of the
request (R131, R132). -/
def State.thresholdReached (s : State) (i : SrcNum) (g : Group) (bound : Option CtxNum) : State :=
  let set := s.settings g
  let s1 := if set.fence then s.setFence i true else s
  let request := if set.abort then bound else none
  let s2 := s1.thresholdAbort request
  if set.irq then
    s2.raise .threshold request (some i) (some (thresholdCode g set.fence request.isSome))
      ((s.counter i g).value.setWidth 16) none
  else s2

/-- Count one refusal of a source in a group, with the binding that an ABORT action looks up (R127, R128,
R130). -/
def State.countBound (s : State) (i : SrcNum) (g : Group) (bound : Option CtxNum) : State :=
  let k := s.counter i g
  let hit := s.reaches i g
  let t := s.setCounter i g ⟨nextCount (s.settings g).holdMode k.value, k.reached || hit⟩
  if hit then t.thresholdReached i g bound else t

/-- Count one refusal of a source in a group; the ABORT action looks the binding up at that moment (R132). -/
def State.count (s : State) (i : SrcNum) (g : Group) : State := s.countBound i g (s.source i).bound

/-- Refusal Accounting takes the report of a refusal (R127). -/
def State.report (s : State) (i : SrcNum) (k : RefusalKind) : State :=
  match k.group with
  | some g => s.count i g
  | none => s

/-- An access is refused: it ends on the bus and the refusal is reported (R59, R73). -/
def State.refuse (s : State) (a : Access) (k : RefusalKind) : State := (s.endRefused a k).report a.src k

end Sys2Proof.Machine
end

