-- ==== Sys2Proof/Machine/Classifier.lean ====
section
/-! DEFINITION. The Access Classifier: regions, the fixed order of classification, holds and the reports that end them (Chapter 4). -/

namespace Sys2Proof.Machine

/-- Whether an enabled region entry contains an address (R62). -/
def Region.covers (r : Region) (a : Addr) : Bool :=
  r.enable && decide (r.base.toNat ≤ a.toNat) && decide (a.toNat ≤ r.limit.toNat)

/-- The region mode of an address: the lowest-numbered enabled entry that contains it, else PASS (R62). -/
def State.regionMode (s : State) (a : Addr) : RegionMode :=
  match sixteen.find? (fun i => (s.region i).covers a) with
  | some i => (s.region i).mode
  | none => .pass

/-- What a classification decides (R64, R65). -/
inductive Verdict where
  | done
  | refused (kind : RefusalKind)
  | hold
  | send (route : Route)
  deriving DecidableEq, Repr

/-- A read in RUN outside the journal window (R64). -/
def State.classifyRead (s : State) (a : Access) : Verdict :=
  match (s.owner a.addr).map s.ctx with
  | some (.active (.faulted _ _) _) => .refused .lockedWord
  | some (.active (.rollingBack _) _) => .hold
  | some (.active .discarding _) => .hold
  | _ => .send .forwarded

/-- Steps 9 to 11 of a write: the word is unclaimed (R65).  The epoch sequence named by a journalled
write is the bound context's. -/
def State.classifyUnclaimed (s : State) (a : Access) : Verdict :=
  match s.regionMode a.addr with
  | .pass => .send .forwarded
  | .readonly => .refused .readonly
  | m =>
    match (s.source a.src).bound with
    | none => if m = .journal then .send .forwarded else .refused .noEpoch
    | some c => .send (.journalled c ((s.ctx c).epoch.elim 0#16 (·.seq)))

/-- Steps 5 to 8 of a write: the word is claimed by context `c` (R65, R46).  The writer's own context is
the one it is bound to, OPEN (R45). -/
def State.classifyClaimed (s : State) (a : Access) (c : CtxNum) : Verdict :=
  match s.ctx c with
  | .active (.faulted _ _) _ => .refused .lockedWord
  | .active .committing _ => .hold
  | .active (.rollingBack _) _ => .hold
  | .active .discarding _ => .hold
  | .active (.opened _) _ => if (s.source a.src).bound = some c then .send .forwarded else .refused .conflict
  | .free => s.classifyUnclaimed a

/-- A write in RUN (R65). -/
def State.classifyWrite (s : State) (a : Access) : Verdict :=
  if a.be = 0#4 then .done
  else if s.inWindow a.addr then .refused .journalWindow
  else if (s.source a.src).fenced then .refused .fenced
  else if s.regionMode a.addr = .readonly then .refused .readonly
  else
    match s.owner a.addr with
    | some c => s.classifyClaimed a c
    | none => s.classifyUnclaimed a

/-- Classification of an access, from the mode check on (R60, R64, R65). -/
def State.classify (s : State) (a : Access) : Verdict :=
  match s.mode with
  | .frozen => .refused .frozen
  | .run =>
    if a.write then s.classifyWrite a
    else if s.inWindow a.addr then .refused .journalWindow
    else s.classifyRead a
  | .gated => .refused .gated
  | .formatting => .refused .gated
  | .recovering => .refused .gated

/-- The writer's own OPEN context when the word is claimed by it: step 8 of R65. -/
def State.ownContext (s : State) (a : Access) : Option CtxNum :=
  if a.write && (s.owner a.addr).isSome && s.owner a.addr == (s.source a.src).bound then s.owner a.addr else none

/-! ### Holds (R68 to R71) -/

/-- An access enters a hold.  The timer is loaded at its first hold and kept at a later one; at 0 the
access is refused at once (R68, R71). -/
def State.enterHold (s : State) (h : HostAccess) (r : HoldReason) : State :=
  match h.holdLeft.getD s.limits.holdlim with
  | 0 => s.refuse h.acc (.holdExpired r)
  | n + 1 => { s with access := some ⟨h.acc, .held r, some (n + 1)⟩ }

/-- The outcome of a classification is applied to the access (R58, R66). -/
def State.settle (s : State) (h : HostAccess) : Verdict → State
  | .done => s.endDone
  | .refused k => s.refuse h.acc k
  | .hold => s.enterHold h .conflict
  | .send r => { s with access := some { h with place := .toMemory r } }

/-- The access is classified from the mode check and the outcome applies. -/
def State.classifyAgain (s : State) (h : HostAccess) : State := s.settle h (s.classify h.acc)

/-- What blocks report to the Access Classifier at the end of a step: a source whose binding changed
(R70), the addresses of released claims (R52), whether a segment returned to the pool (R69). -/
structure Report where
  rebound  : Option SrcNum
  released : List Addr
  returned : Bool
  deriving DecidableEq, Repr

/-- Whether a report ends the hold of an access (R69, R70).  A CAPACITY hold of kind CLAIM_FULL ends on
any release. -/
def Report.clears (p : Report) (a : Access) : HoldReason → Bool
  | .conflict => p.released.contains a.addr || (a.write && p.rebound == some a.src)
  | .claimFull => !p.released.isEmpty || (a.write && p.rebound == some a.src)
  | .journalFull => p.returned || (a.write && p.rebound == some a.src)

/-- A report reaches the Access Classifier: a held access that it clears is classified again. -/
def State.deliver (s : State) (p : Report) : State :=
  match s.access with
  | some h =>
    match h.place with
    | .held r => if p.clears h.acc r then s.classifyAgain h else s
    | .toMemory _ => s
  | none => s

/-- The report of a context leaving OPEN: its source's binding changes, and its segments return when the
epoch is empty (R17, R70). -/
def State.leaveReport (s : State) (c : CtxNum) : Report :=
  match s.ctx c with
  | .active (.opened _) e => ⟨some e.source, [], s.isEmptyEpoch c⟩
  | _ => ⟨none, [], false⟩

/-- A rollback request is taken and a held access that it concerns is classified again (R16, R70). -/
def State.requestRollback (s : State) (c : CtxNum) (k : Cause) : State :=
  (s.takeRollback c k).deliver (s.leaveReport c)

/-- An accepted COMMIT is taken and a held access that it concerns is classified again (R15, R17, R70). -/
def State.requestCommit (s : State) (c : CtxNum) : State := (s.takeCommit c).deliver (s.leaveReport c)

end Sys2Proof.Machine
end

