-- ==== Sys2Proof/Machine/Grants.lean ====
section
/-! DEFINITION. A grant in progress: its accesses and their marks, guard evaluation within it, and the end-of-grant guard events and requests (R74, R120 to R126). -/

namespace Sys2Proof.Machine

/-! ### Guard evaluation -/

/-- Whether a word value matches an entry (R115). -/
def Guard.agrees (g : Guard) (v : Word) : Bool := v &&& g.mask == g.expected &&& g.mask

/-- Whether any enabled entry watches a word (R67, R103, R120). -/
def State.watches (s : State) (a : Addr) : Bool := eight.any (fun i => (s.guard i).enable && (s.guard i).addr == a)

/-- Whether a trigger admits a transition; `make` is MAKE, else BREAK (R121). -/
def Trigger.admits : Trigger → Bool → Bool
  | .onBreak, make => !make
  | .onMake, make => make
  | .onBoth, _ => true

/-- The transition that a merged new word makes in an armed entry: `some true` MAKE, `some false` BREAK
(R121). -/
def Guard.transition (g : Guard) (new : Word) : Option Bool :=
  match g.state with
  | .isMatch => if g.agrees new then none else some false
  | .isMismatch => if g.agrees new then some true else none
  | .unarmed => none
  | .arming => none

/-- The state of an entry after a transition (R121). -/
def Guard.moved (g : Guard) (make : Bool) : Guard := { g with state := if make then .isMatch else .isMismatch }

/-- Whether an entry's action makes a rollback request for the writer's context (R124, R126). -/
def Guard.requests (g : Guard) (writer : Option CtxNum) (restore : Bool) : Bool :=
  !restore && g.action == .rollbackWriter && writer.isSome && (g.bound.isNone || g.bound == writer)

/-- Add a guard transition to those the grant in progress has found. -/
def State.addHit (s : State) (h : GuardHit) : State :=
  { s with grant := s.grant.map fun g => { g with hits := g.hits ++ [h] } }

/-- A COMMIT sees the move of entry `i` only at the end of the grant in progress: a move to MATCH by any write
(R125) and every move by a restore (R126). -/
def State.addLate (s : State) (i : Fin 8) : State :=
  { s with grant := s.grant.map fun g => { g with late := g.late ++ [i] } }

/-- The evaluation of a write for one entry (R121).  A move to MISMATCH by a host write counts for a COMMIT at
once (log 32). -/
def State.evaluate (s : State) (a : Addr) (new : Word) (writer : Option CtxNum) (src : SrcNum) (restore : Bool)
    (i : Fin 8) : State :=
  let g := s.guard i
  if g.enable && g.addr == a then
    match g.transition new with
    | none => s
    | some make =>
      let t := if make || restore then (s.setGuard i (g.moved make)).addLate i else s.setGuard i (g.moved make)
      if g.trigger.admits make then t.addHit ⟨i, make, a, writer, src, restore, g.requests writer restore⟩ else t
  else s

/-- The evaluation of a write for every entry, in ascending order of index (R123). -/
def State.evaluateAll (s : State) (a : Addr) (new : Word) (writer : Option CtxNum) (src : SrcNum) (restore : Bool) :
    State :=
  eight.foldl (fun t i => t.evaluate a new writer src restore i) s

/-- The code of a GUARD event (R122). -/
def GuardHit.code (h : GuardHit) : Byte :=
  (if h.make then 2#8 else 1#8) + (if h.restore then 4#8 else 0#8) + (if h.request then 8#8 else 0#8)

/-- Raise the GUARD event of one transition (R122). -/
def State.raiseHit (s : State) (h : GuardHit) : State :=
  s.raise .guard h.ctx (some h.src) (some h.code) (BitVec.ofNat 16 h.entry.val) (some h.addr)

/-- Hand the rollback request of one transition to the Context Table (R124). -/
def State.requestHit (s : State) (h : GuardHit) : State :=
  match h.request, h.ctx with
  | true, some c => s.requestRollback c .guard
  | _, _ => s

/-- At the end of a grant: the events in ascending order, then the requests in ascending order (R122 to R124).
DESIGN CHOICE: the requests are made whether or not the event mask lets the events into the queue (log 30). -/
def State.reportHits (s : State) (hits : List GuardHit) : State :=
  hits.foldl State.requestHit (hits.foldl State.raiseHit s)

/-! ### Accesses of a grant -/

/-- A record has been restored: its claim is released, if this context owns it, and records restored
rises (R50, R103). -/
def State.creditRestore (s : State) (c : CtxNum) (a : Addr) : State :=
  (s.releaseClaim a c).mapEpoch c fun e => { e with restored := e.restored + 1 }

/-- What an access brings about on the chip when it completes. -/
def State.mark (s : State) : Mark → State
  | .quiet => s
  | .preimage v =>
    { s with grant := s.grant.map fun g =>
        match g.task with
        | .journalledWrite w => { g with task := .journalledWrite { w with preimage := some v } }
        | _ => g }
  | .header c => s.mapEpoch c fun e => { e with headerWritten := true }
  | .record c k => s.mapEpoch c fun e => { e with fill := k + 1, preWritten := e.preWritten + 1 }
  | .marker c => s.mapEpoch c fun e => { e with markerWritten := true }
  | .restored c a => s.creditRestore c a
  | .watched a new writer src restore => s.evaluateAll a new writer src restore

/-- One memory-side access. -/
def State.port (s : State) : PortOp → State
  | .read _ => s
  | .write a be w => s.store a be w

/-- One access of a grant with its mark. -/
def State.perform (s : State) (p : PlannedOp) : State := (s.port p.op).mark p.mark

/-- Accesses in order. -/
def State.performAll (s : State) (ps : List PlannedOp) : State := ps.foldl State.perform s

/-- Put the grant's remaining accesses aside. -/
def State.setTodo (s : State) (todo : List PlannedOp) : State :=
  { s with grant := s.grant.map fun g => { g with todo := todo } }

/-- Start a grant: its task and its plan.  The port carries one grant at a time, so the words the plan
reads and writes are those memory holds at its start (R74, log 25). -/
def State.startGrant (s : State) (t : Task) (plan : List PlannedOp) : State := { s with grant := some ⟨t, plan, [], []⟩ }

end Sys2Proof.Machine
end

