-- ==== Sys2Proof/Machine/HostPath.lean ====
section
/-! DEFINITION. Host-path grants: the repeated classification, forwarded accesses and the journalled write with its capacity checks (Chapters 4 and 5). -/

namespace Sys2Proof.Machine

/-- The capacity conditions of a journalled write (R49). -/
inductive Shortage where
  | claimFull
  | journalFull
  | quota
  deriving DecidableEq, Repr

/-- The refusal kind of a capacity condition (R81). -/
def Shortage.kind : Shortage → RefusalKind
  | .claimFull => .claimFull
  | .journalFull => .journalFull
  | .quota => .quota

/-- The capacity checks, in the order of R49; a new segment is needed when fill is 15 (R79). -/
def State.shortage (s : State) (c : CtxNum) (e : Epoch) : Option Shortage :=
  if Config.claimCapacity ≤ s.occupancy then some .claimFull
  else if s.limits.qclm ≤ s.claimsHeld c then some .quota
  else if e.fill < 15 then none
  else if s.limits.qseg ≤ e.chain.length then some .quota
  else if s.pool.isEmpty then some .journalFull
  else none

/-- A refusal under JFULL = ABORT: it is counted, and a rollback request with cause CAPACITY is made for
the writer's context (R82).  When the count also reaches its threshold, which request is taken first is a
free value (log 11).  Both requests belong to the one refusal and both are made (R132): the ABORT action's
lookup gives the binding as the refusal found it, also when the capacity request is taken first. -/
def State.capacityAbort (s : State) (a : Access) (c : CtxNum) (k : RefusalKind) : State :=
  if s.reaches a.src .capacity then
    let t := State.endRefused { s with choices := s.choices + 1 } a k
    if Config.capacityRequestFirst s.choices then
      (t.requestRollback c .capacity).countBound a.src .capacity (s.source a.src).bound
    else (t.count a.src .capacity).requestRollback c .capacity
  else (s.refuse a k).requestRollback c .capacity

/-- The outcome of a start step whose capacity checks fail, once the grant has ended (R81 to R83). -/
def State.capacityOutcome (s : State) (h : HostAccess) (c : CtxNum) (q : Shortage) : State :=
  match s.limits.jfull, q with
  | .hold, .claimFull => s.enterHold h .claimFull
  | .hold, .journalFull => s.enterHold h .journalFull
  | .hold, .quota => s.refuse h.acc .quota
  | .refuse, q => s.refuse h.acc q.kind
  | .abort, q => s.capacityAbort h.acc c q.kind

/-- Where the PRE record of the grant goes: segment, slot and chain index (R79). -/
structure Target where
  seg  : Nat
  slot : Nat
  idx  : Nat
  deriving DecidableEq, Repr

/-- The target of a journalled write: the slot that fill names in the last segment, or slot 1 of the
segment at the pool head when fill is 15 (R79). -/
def State.target (s : State) (e : Epoch) : Target :=
  if e.fill < 15 then ⟨(e.chain.getLast?.map (·.seg)).getD 0, e.fill, e.chain.length - 1⟩
  else ⟨s.pool.headD 0, 1, e.chain.length⟩

/-- The segment taking of the start step, when fill is 15: the pool head joins the chain and fill becomes
1 (R36, R79, R42). -/
def State.extendChain (s : State) (c : CtxNum) (e : Epoch) : State :=
  if e.fill < 15 then s
  else
    let grow : Epoch → Epoch := fun e =>
      { e with chain := e.chain ++ [⟨s.pool.headD 0, e.chain.length⟩], fill := 1 }
    (State.mapEpoch { s with pool := s.pool.tail } c grow).lowWater s.pool.length

/-- The working record as the start step fills it (R78, R79). -/
def State.working (s : State) (a : Access) (c : CtxNum) (e : Epoch) : Working :=
  let t := s.target e
  ⟨a.src, c, e.seq, a.addr, a.be, a.data, t.seg, t.slot, t.idx, t.slot == 1, none⟩

/-- The host write itself, evaluated by the Guard Monitor when the word is watched (R67, R88). -/
def State.hostWrite (s : State) (a : Access) (writer : Option CtxNum) : PlannedOp :=
  ⟨.write a.addr a.be a.data,
    if s.watches a.addr then .watched a.addr (mergeBytes a.be (s.word a.addr) a.data) writer a.src false else .quiet⟩

/-- The memory work of a journalled write grant, in the order of R84: the pre-image read, the header when
needed, the PRE record, the host write. -/
def State.journalPlan (s : State) (w : Working) (a : Access) : List PlannedOp :=
  let pre := s.word w.addr
  ⟨.read w.addr, .preimage pre⟩ ::
  ((if w.header then
      s.recordWrites w.seg 0 (headerRecord s.gen w.ctx w.source w.idx w.seg w.seq)
        (if w.idx = 0 then .header w.ctx else .quiet)
    else []) ++
   s.recordWrites w.seg w.slot (preRecord s.gen w.ctx w.source w.idx w.slot w.seq w.addr pre) (.record w.ctx w.slot) ++
   [s.hostWrite a (some w.ctx)])

/-- The start step of a journalled write whose classification stands (R79, R81). -/
def State.startJournalled (s : State) (h : HostAccess) (c : CtxNum) : State :=
  match (s.ctx c).epoch with
  | none => s.freePort
  | some e =>
    match s.shortage c e with
    | some q => s.freePort.capacityOutcome h c q
    | none =>
      let w := s.working h.acc c e
      ((s.insertClaim h.acc.addr c).extendChain c e).startGrant (.journalledWrite w) (s.journalPlan w h.acc)

/-- The start of a forwarded access whose classification stands (R67). -/
def State.startForwarded (s : State) (h : HostAccess) : State :=
  let a := h.acc
  if a.write then
    s.startGrant (.forwardedWrite a (s.ownContext a))
      ((if s.watches a.addr then [(PortOp.read a.addr).plain] else []) ++ [s.hostWrite a (s.ownContext a)])
  else s.startGrant (.forwardedRead a) [(PortOp.read a.addr).plain]

/-- The start of a host-path grant: the access is classified again from the mode check, and when the
outcome has changed the grant ends with no memory access and the new outcome applies (R66, R80). -/
def State.startHost (s : State) (h : HostAccess) (r : Route) : State :=
  let v := s.classify h.acc
  if v = .send r then
    match r with
    | .forwarded => s.startForwarded h
    | .journalled c _ => s.startJournalled h c
  else s.freePort.settle h v

/-- The end of a forwarded read (R67). -/
def State.finishRead (s : State) (a : Access) : State := s.freePort.endRead (s.word a.addr)

/-- The end of a forwarded write (R67, R122). -/
def State.finishWrite (s : State) (reload : Option CtxNum) (hits : List GuardHit) : State :=
  let t := s.freePort.endDone
  (match reload with
    | some c => t.reloadIdle c
    | none => t).reportHits hits

/-- The end of a journalled write grant (R88, R89). -/
def State.finishJournalled (s : State) (w : Working) (hits : List GuardHit) : State :=
  (s.freePort.endDone.reloadIdle w.ctx).reportHits hits

/-! ### Guard arming (R118) -/

/-- The lowest-numbered ARMING entry. -/
def State.firstArming (s : State) : Option (Fin 8) := eight.find? (fun i => (s.guard i).state == .arming)

/-- The start of an arming grant; with no entry left ARMING the grant ends with no read. -/
def State.startArming (s : State) : State :=
  match s.firstArming with
  | some i => s.startGrant (.armingRead i true) [(PortOp.read (s.guard i).addr).plain]
  | none => s.freePort

/-- An entry after its arming read of a word (R118). -/
def Guard.armed (g : Guard) (v : Word) : Guard := { g with state := if g.agrees v then .isMatch else .isMismatch }

/-- The end of an arming grant: the result is discarded when SET_GUARD has rewritten the entry (R118). -/
def State.finishArming (s : State) (i : Fin 8) (wanted : Bool) : State :=
  let t := s.freePort
  if wanted then t.setGuard i ((s.guard i).armed (s.word (s.guard i).addr)) else t

end Sys2Proof.Machine
end

