-- ==== Sys2Proof/Machine/Engine.lean ====
section
/-! DEFINITION. The Replay Engine: the head job and its phases, markers, restore steps, freeing, faults and job ends (Chapter 6). -/

namespace Sys2Proof.Machine

/-! ### Positions in a chain (R101) -/

/-- The segment before `seg` in a chain. -/
def prevSeg : List ChainEntry → Nat → Option Nat
  | a :: b :: t, seg => if b.seg = seg then some a.seg else prevSeg (b :: t) seg
  | _, _ => none

/-- The next older record's position, `none` at the end of the RESTORE phase (R101). -/
def nextOlder (chain : List ChainEntry) (p : SlotPos) : Option SlotPos :=
  if 1 < p.slot then some ⟨p.seg, p.slot - 1⟩ else (prevSeg chain p.seg).map fun n => ⟨n, 14⟩

/-- The phase after the position has moved (R101, R105). -/
def phaseAfter (chain : List ChainEntry) (p : SlotPos) : JobPhase :=
  match nextOlder chain p with
  | some q => .restore q
  | none => .marker

/-- The start position of the RESTORE phase: the resume position, or slot fill - 1 of the last segment;
at slot 0 the phase ends at once (R101). -/
def startPhase (e : Epoch) (resume : Option SlotPos) : JobPhase :=
  let p := resume.getD ⟨(e.chain.getLast?.map (·.seg)).getD 0, e.fill - 1⟩
  if p.slot = 0 then .marker else .restore p

/-- The first phase of a job, from its context as it stands (R95). -/
def firstPhase (p : Phase) (e : Epoch) (resume : Option SlotPos) : JobPhase :=
  if e.markerWritten then .freeing
  else
    match p with
    | .rollingBack _ => startPhase e resume
    | _ => .marker

/-- The head job: the engine's record, or the one chosen at the start of the head entry's first step
(R95). -/
def State.headJob (s : State) : Option Job :=
  match s.job with
  | some j => some j
  | none =>
    match s.queue with
    | [] => none
    | q :: _ =>
      match s.ctx q.ctx with
      | .active p e => some ⟨q.ctx, firstPhase p e q.resume⟩
      | .free => none

/-! ### Judging a record (R102) -/

/-- The chain index that a chain gives a segment. -/
def chainIdx (chain : List ChainEntry) (seg : Nat) : Nat := ((chain.find? fun x => x.seg == seg).map (·.idx)).getD 0

/-- The identity of an epoch's records in a segment of its chain (R32). -/
def State.identity (s : State) (c : CtxNum) (e : Epoch) (seg : Nat) : Identity :=
  ⟨s.gen, c, e.source, chainIdx e.chain seg, e.seq⟩

/-- The judgement of a slot by a restore step, in the order of R102. -/
def State.judge (s : State) (c : CtxNum) (e : Epoch) (p : SlotPos) : Judged :=
  let r := s.slot p.seg p.slot
  let mine := r.belongs (s.identity c e p.seg) p.slot
  if mine && r.isKind .restored && r.passes then .passedOver
  else if !mine || !(r.isKind .pre || r.isKind .restored) then .fault .foreign
  else if !r.passes then .fault .check
  else if s.inWindow (addrField r.w1) then .fault .check
  else .restorable (addrField r.w1) r.w2

/-- Whether a restorable record's word is claimed by the context of the job (R50). -/
def State.ownsWord (s : State) (c : CtxNum) : Judged → Bool
  | .restorable a _ => s.owner a == some c
  | _ => false

/-! ### Tasks and plans -/

/-- The task of the head job's next step (R95). -/
def State.jobTask (s : State) (j : Job) : Option Task :=
  match s.ctx j.ctx with
  | .free => none
  | .active p e =>
    if e.chain.isEmpty then none
    else
      match j.phase with
      | .restore pos =>
        let found := s.judge j.ctx e pos
        some (.restore j.ctx pos found (s.ownsWord j.ctx found))
      | .freeing => some (.freeing j.ctx)
      | .marker =>
        match p with
        | .committing => some (.commitMarker j.ctx)
        | .rollingBack _ => some (.abortMarker j.ctx)
        | .discarding => some (.discardMarker j.ctx)
        | _ => none

/-- The writes of a marker at the slot fill names in the chain's last segment (R97, R105, R109). -/
def State.markerPlan (s : State) (c : CtxNum) (kind : RecordKind) (flag : Word) : List PlannedOp :=
  match (s.ctx c).epoch with
  | none => []
  | some e =>
    match e.chain.getLast? with
    | none => []
    | some x =>
      s.recordWrites x.seg e.fill (markerRecord kind flag s.gen c e.source x.idx e.fill e.seq e.preWritten) (.marker c)

/-- The accesses of a restore step (R102, R103).  The RESTORED descriptor keeps every other bit of the
descriptor read (R29, R166). -/
def State.restorePlan (s : State) (c : CtxNum) (p : SlotPos) (found : Judged) : List PlannedOp :=
  s.slotReads p.seg p.slot ++
  match found with
  | .restorable a pre =>
    (if s.watches a then [(PortOp.read a).plain] else []) ++
    [⟨.write a allBytes pre,
       if s.watches a then .watched a pre (some c) ((s.ctx c).epoch.elim 0 (·.source)) true else .quiet⟩,
     ⟨.write (s.slotAddr p.seg p.slot 0) allBytes
        (withKind RecordKind.restored.code (s.word (s.slotAddr p.seg p.slot 0))), .restored c a⟩]
  | _ => []

/-- The one write of a freeing step: the RELEASED descriptor, composed from the context record (R29, R40). -/
def State.freeingPlan (s : State) (c : CtxNum) : List PlannedOp :=
  match (s.ctx c).epoch with
  | none => []
  | some e =>
    match e.chain with
    | [] => []
    | x :: _ =>
      [(PortOp.write (s.slotAddr x.seg 0 0) allBytes (descriptor .released s.gen x.idx 0 c e.source)).plain]

/-! ### Ends of steps -/

/-- Replace the phase of the head job. -/
def State.setPhase (s : State) (c : CtxNum) (p : JobPhase) : State := { s with job := some ⟨c, p⟩ }

/-- The end of a COMMIT or discard marker's grant: every claim of the context is released and reported,
and FREEING follows (R51, R97, R109). -/
def State.finishReleasingMarker (s : State) (c : CtxNum) : State :=
  ((s.freePort.setPhase c .freeing).releaseAll c).deliver ⟨none, s.claimedBy c, false⟩

/-- The end of a rollback job's marker grant (R105). -/
def State.finishAbortMarker (s : State) (c : CtxNum) : State := s.freePort.setPhase c .freeing

/-- The head entry leaves the queue and the engine forgets its record (R99, R106). -/
def State.dropHead (s : State) : State := { s with queue := s.queue.tail, job := none }

/-- The origin of a fault: RECOVERY when the step is one of recovery's replay (R106).  The recovery work
stays in force when PFAIL# has made the mode FROZEN, so the step's own mode decides. -/
def State.faultOrigin (s : State) : FaultOrigin :=
  match s.work with
  | .replay _ => .recovery
  | _ => .live

/-- A restore step found a fault (R18, R106, R110). -/
def State.faultJob (s : State) (c : CtxNum) (pos : SlotPos) (k : FaultKind) : State :=
  match s.ctx c with
  | .active (.rollingBack cause) e =>
    ((s.setCtx c (.active (.faulted cause ⟨k, s.faultOrigin, some pos⟩) e)).dropHead).raise .faulted (some c)
      (some e.source) (some cause.code) (BitVec.ofNat 16 e.restored) (some (s.slotAddr pos.seg pos.slot 0))
  | _ => s.dropHead

/-- The end of a restore step (R101 to R104, R106): guard events, then the release report. -/
def State.finishRestore (s : State) (c : CtxNum) (pos : SlotPos) (found : Judged) (owned : Bool)
    (hits : List GuardHit) : State :=
  let chain := (s.ctx c).epoch.elim [] (·.chain)
  let t := s.freePort
  match found with
  | .fault k => t.faultJob c pos k
  | .passedOver => t.setPhase c (phaseAfter chain pos)
  | .restorable a _ =>
    ((t.setPhase c (phaseAfter chain pos)).reportHits hits).deliver ⟨none, if owned then [a] else [], false⟩

/-- The completion event of a job (R110). -/
def State.completionEvent (s : State) (c : CtxNum) (p : Phase) (e : Epoch) : State :=
  match p with
  | .committing => s.raise .committed (some c) (some e.source) none (BitVec.ofNat 16 e.preWritten) none
  | .rollingBack k => s.raise .rolledBack (some c) (some e.source) (some k.code) (BitVec.ofNat 16 e.preWritten) none
  | .discarding =>
    s.raise .discarded (some c) (some e.source) none (BitVec.ofNat 16 (e.preWritten - e.restored)) none
  | _ => s

/-- Recovery counts the end of a job: an epoch found with a marker was finished, another rolled back
(R152). -/
def Recovery.tally (r : Recovery) (c : CtxNum) : Recovery :=
  if r.marked.contains c then { r with finished := r.finished + 1 } else { r with rolledBack := r.rolledBack + 1 }

/-- The tally of a job's end in the recovery work, if one is in force. -/
def State.tallyEnd (s : State) (c : CtxNum) : State :=
  match s.work with
  | .replay r => { s with work := .replay (r.tally c) }
  | _ => s

/-- The job of a context ends: the entry leaves the queue, the context becomes FREE, the completion event
is raised (R99). -/
def State.endJob (s : State) (c : CtxNum) (p : Phase) (e : Epoch) : State :=
  ((s.dropHead.setCtx c .free).completionEvent c p e).tallyEnd c

/-- The end of a freeing step: the head segment leaves the chain for the pool tail and the return is
reported; with the last one the job ends (R40, R98, R99). -/
def State.finishFreeing (s : State) (c : CtxNum) : State :=
  match s.ctx c with
  | .free => s.freePort
  | .active p e =>
    match e.chain with
    | [] => s.freePort
    | x :: rest =>
      let t := s.freePort.returnSegs [x.seg]
      (if rest.isEmpty then t.endJob c p e
       else (t.setCtx c (.active p { e with chain := rest })).setPhase c .freeing).deliver ⟨none, [], true⟩

end Sys2Proof.Machine
end

