-- ==== Sys2Proof/Machine/Recovery.lean ====
section
/-! DEFINITION. Format and recovery work: the survey, the judgement, the queueing of jobs, the claim rebuild and the finish (Chapter 9). -/

namespace Sys2Proof.Machine

/-! ### Format (R143, R144) -/

/-- The writes of a format step. -/
def State.formatPlan (s : State) (n : Nat) : List PlannedOp := s.recordWrites n 0 (blankRecord s.gen) .quiet

/-- FORMAT ends: the pool holds every segment, the counter is 0, the mode is RUN and FORMAT_DONE is raised
(R143). -/
def State.formatDone (s : State) : State :=
  State.raise { s with pool := List.range s.nseg, epochSeq := 0#16, mode := .run, work := .idle }
    .formatDone none none none (BitVec.ofNat 16 s.nseg) none

/-- The end of a format step.  When PFAIL# has made the mode FROZEN the pool stays empty and no FORMAT_DONE
is raised (R144). -/
def State.finishFormat (s : State) : State :=
  let t := s.freePort
  match s.work with
  | .format n =>
    if n + 1 < s.nseg || s.mode == .frozen then { t with work := .format (n + 1) } else t.formatDone
  | _ => t

/-! ### Live segments and groups (R146, R147) -/

/-- What the survey keeps of the header in slot 0 of segment `n`. -/
def liveSeg (r : Record) (n : Nat) : LiveSeg :=
  ⟨n, ctxField r.w0, srcField r.w0, idxField r.w0, seqField r.w3⟩

/-- Insert a live segment behind those of smaller or equal chain index. -/
def insertLive (x : LiveSeg) : List LiveSeg → List LiveSeg
  | [] => [x]
  | y :: t => if x.idx < y.idx then x :: y :: t else y :: insertLive x t

/-- The live segments of a context, by chain index and then by segment number (R146).  The survey finds
segments in ascending order, so inserting behind equals keeps that order. -/
def groupOf (found : List LiveSeg) (c : CtxNum) : List LiveSeg :=
  (found.filter (fun x => x.ctx == c)).foldl (fun l x => insertLive x l) []

/-- Whether chain indices form one unbroken run from `j` on. -/
def isRun : Nat → List LiveSeg → Bool
  | _, [] => true
  | j, x :: t => x.idx == j && isRun (j + 1) t

/-- Whether a group is a consistent chain (R147). -/
def isConsistent : List LiveSeg → Bool
  | [] => false
  | x :: t => t.all (fun y => y.src == x.src && y.seq == x.seq) && isRun x.idx (x :: t)

/-- A group as a chain. -/
def asChain (g : List LiveSeg) : List ChainEntry := g.map fun x => ⟨x.seg, x.idx⟩

/-- A context faulted with kind CHAIN, and its event (R147). -/
def State.faultChain (s : State) (c : CtxNum) (g : List LiveSeg) : State :=
  match g with
  | [] => s
  | x :: _ =>
    (s.setCtx c (.active (.faulted .recovery ⟨.chain, .recovery, none⟩) ⟨x.src, x.seq, asChain g, 15, true, 0, 0, false⟩)).raise
      .faulted (some c) (some x.src) (some Cause.recovery.code) 0#16 none

/-! ### Finish (R152) -/

/-- The largest epoch sequence of the live headers, plus one; 0 when there is none (R152). -/
def nextSeq : List LiveSeg → BitVec 16
  | [] => 0#16
  | x :: t => t.foldl (fun m y => if m < y.seq then y.seq else m) x.seq + 1#16

/-- Whether a context is FAULTED. -/
def Context.isFaulted : Context → Bool
  | .active (.faulted _ _) _ => true
  | _ => false

/-- The contexts that are FAULTED, ascending. -/
def State.faultedContexts (s : State) : List CtxNum := eight.filter (fun c => (s.ctx c).isFaulted)

/-- The rebuild grants to make: each chain segment of each FAULTED context (R152). -/
def State.rebuildList (s : State) : List (CtxNum × ChainEntry) :=
  s.faultedContexts.flatMap fun c => ((s.ctx c).epoch.elim [] (·.chain)).map fun x => (c, x)

/-- Recovery ends: the mode is RUN and RECOVERY_DONE is raised (R152). -/
def State.recoveryDone (s : State) (r : Recovery) : State :=
  State.raise { s with mode := .run, work := .idle } .recoveryDone none none (some (byte1 s.faultedContexts.length))
    (BitVec.ofNat 16 (256 * r.rolledBack + r.finished)) none

/-- Replay has ended: the epoch counter is set, and the rebuild begins or recovery ends at once (R152). -/
def State.finishReplay (s : State) (r : Recovery) : State :=
  let t := { s with epochSeq := nextSeq r.found }
  if s.rebuildList.isEmpty then t.recoveryDone r else { t with work := .rebuild r s.rebuildList }

/-- After an engine step: replay ends when the engine queue is empty, in RECOVERING only (R151, R153). -/
def State.afterEngine (s : State) : State :=
  match s.work with
  | .replay r => if s.mode == .recovering && s.queue.isEmpty then s.finishReplay r else s
  | _ => s

/-! ### Judgement (R148 to R150) -/

/-- The newest counted record of an epoch without a marker, from its chain and fill (R150). -/
def newestRecord (e : Epoch) : Option SlotPos :=
  match e.chain.reverse with
  | [] => none
  | x :: older =>
    if 1 < e.fill then some ⟨x.seg, e.fill - 1⟩
    else
      match older with
      | [] => none
      | y :: _ => some ⟨y.seg, 14⟩

/-- The queue entry of a context after the judgement, if it has a job (R150). -/
def State.jobEntry (s : State) (c : CtxNum) : Option QueueEntry :=
  match s.ctx c with
  | .active .committing _ => some ⟨c, none⟩
  | .active .discarding _ => some ⟨c, none⟩
  | .active (.rollingBack _) e => some ⟨c, if e.markerWritten then none else newestRecord e⟩
  | _ => none

/-- The judgement of the last chain has been made: the jobs are queued in ascending context number (R150). -/
def State.queueJobs (s : State) (r : Recovery) : State :=
  State.afterEngine { s with queue := s.queue ++ eight.filterMap s.jobEntry, work := .replay r }

/-- The judgement goes on to the next chain, or queues the jobs. -/
def State.nextChain (s : State) (r : Recovery) : State :=
  let r' := { r with toJudge := r.toJudge.tail }
  if r'.toJudge.isEmpty then s.queueJobs r' else { s with work := .judge r' none }

/-- What the read of a final segment found (R148). -/
inductive FinalFinding where
  /-- the records end before slot `fill` -/
  | ends (fill : Nat)
  /-- a valid marker in slot `slot` -/
  | marker (slot : Nat)
  /-- a PRE or RESTORED record that passes its check in slot 15 -/
  | badSlot
  deriving DecidableEq, Repr

/-- The scan of a final segment from slot `k`, `n` slots long (R148). -/
def State.scanFinal (s : State) (seg : Nat) (e : Identity) : Nat → Nat → FinalFinding
  | 0, k => .ends k
  | n + 1, k =>
    let r := s.slot seg k
    if !r.belongs e k then .ends k
    else if r.passes && (r.isKind .commit || r.isKind .abort) then .marker k
    else if !r.passes && (k == Config.lastSlot || !(s.slot seg (k + 1)).belongs e (k + 1)) then .ends k
    else if k == Config.lastSlot then .badSlot
    else s.scanFinal seg e n (k + 1)

/-- RESTORED records that pass their check among `n` slots from slot `k` (R149). -/
def State.countRestored (s : State) (seg : Nat) : Nat → Nat → Nat
  | 0, _ => 0
  | n + 1, k =>
    (if (s.slot seg k).isKind .restored && (s.slot seg k).passes then 1 else 0) + s.countRestored seg n (k + 1)

/-- What the read of another segment found (R149). -/
inductive SegmentFinding where
  | full
  /-- slot `slot` does not belong -/
  | short (slot : Nat)
  /-- a COMMIT or ABORT record that belongs -/
  | misplacedMarker
  deriving DecidableEq, Repr

/-- The scan of a segment other than the final one from slot `k`, `n` slots long (R149). -/
def State.scanSegment (s : State) (seg : Nat) (e : Identity) : Nat → Nat → SegmentFinding
  | 0, _ => .full
  | n + 1, k =>
    let r := s.slot seg k
    if !r.belongs e k then .short k
    else if r.isKind .commit || r.isKind .abort then .misplacedMarker
    else s.scanSegment seg e n (k + 1)

/-- The identity of the records of a live segment (R32). -/
def State.liveIdentity (s : State) (x : LiveSeg) : Identity := ⟨s.gen, x.ctx, x.src, x.idx, x.seq⟩

/-- The discard flag in word 2 of an ABORT marker (R28, R150); a value other than 0 and 1 is a free value
(log 19). -/
def discardFlag (w2 : Word) : Bool :=
  if w2 = 0#32 then false else if w2 = 1#32 then true else Config.oddDiscardFlag w2

/-- The record of an epoch that ended with a valid marker `m` in slot `k` (R150). -/
def endedContext (g : List LiveSeg) (x : LiveSeg) (k : Nat) (m : Record) : Context :=
  let n := countField m.w1
  if m.isKind .commit then .active .committing ⟨x.src, x.seq, asChain g, k, true, n, 0, true⟩
  else
    .active (if discardFlag m.w2 then .discarding else .rollingBack .recovery)
      ⟨x.src, x.seq, asChain g, k, true, n, n, true⟩

/-- The record of an epoch without a marker (R150). -/
def openEnded (g : List LiveSeg) (x : LiveSeg) (fill pre restored : Nat) : Epoch :=
  ⟨x.src, x.seq, asChain g, fill, true, pre, restored, false⟩

/-- The end of the first judgement grant of a chain (R148). -/
def State.finishJudgeFinal (s : State) : State :=
  let t := s.freePort
  match s.work with
  | .judge r none =>
    match r.toJudge with
    | [] => t.queueJobs r
    | c :: _ =>
      let g := groupOf r.found c
      match g.getLast?, g.head? with
      | some x, some first =>
        match s.scanFinal x.seg (s.liveIdentity x) 15 1 with
        | .marker k =>
          (t.setCtx c (endedContext g x k (s.slot x.seg k))).nextChain { r with marked := c :: r.marked }
        | .badSlot => (t.faultChain c g).nextChain r
        | .ends fill =>
          let restored := s.countRestored x.seg (fill - 1) 1
          if first.idx ≠ 0 then (t.faultChain c g).nextChain r
          else if g.length = 1 then
            (t.setCtx c (.active (.rollingBack .recovery) (openEnded g x fill (fill - 1) restored))).nextChain r
          else { t with work := .judge r (some ⟨fill, restored, (asChain g).dropLast, 0, 0⟩) }
      | _, _ => t.nextChain r
  | _ => t

/-- A context faulted with kind SHORT at slot `k` of a segment, and its event (R149, R150). -/
def State.faultShort (s : State) (c : CtxNum) (seg k : Nat) (e : Epoch) : State :=
  (s.setCtx c (.active (.faulted .recovery ⟨.short, .recovery, some ⟨seg, k⟩⟩) e)).raise .faulted (some c)
    (some e.source) (some Cause.recovery.code) (BitVec.ofNat 16 e.restored) (some (s.slotAddr seg k 0))

/-- The end of a judgement grant of a segment other than the final one (R149). -/
def State.finishJudgeSegment (s : State) : State :=
  let t := s.freePort
  match s.work with
  | .judge r (some q) =>
    match r.toJudge, q.left with
    | c :: _, y :: rest =>
      let g := groupOf r.found c
      match g.getLast? with
      | none => t.nextChain r
      | some x =>
        match s.scanSegment y.seg { s.liveIdentity x with idx := y.idx } 14 1 with
        | .short k =>
          (t.faultShort c y.seg k
            (openEnded g x q.fill (q.pre + (k - 1)) (q.restored + s.countRestored y.seg (k - 1) 1))).nextChain r
        | .misplacedMarker => (t.faultChain c g).nextChain r
        | .full =>
          let pre := q.pre + 14
          let restored := q.restored + s.countRestored y.seg 14 1
          if rest.isEmpty then
            (t.setCtx c (.active (.rollingBack .recovery)
              (openEnded g x q.fill (pre + (q.fill - 1)) (restored + q.finalRestored)))).nextChain r
          else { t with work := .judge r (some { q with left := rest, pre := pre, restored := restored }) }
    | _, _ => t.nextChain r
  | _ => t

/-! ### Survey (R146, R147) -/

/-- The survey has read the last segment: the pool is set, inconsistent groups are faulted in ascending
context number, and the judgement begins (R146, R147). -/
def State.surveyEnd (s : State) (found : List LiveSeg) : State :=
  let t := { s with pool := (List.range s.nseg).filter fun n => !found.any (fun x => x.seg == n) }
  let bad := eight.filter fun c => !(groupOf found c).isEmpty && !isConsistent (groupOf found c)
  let good := eight.filter fun c => isConsistent (groupOf found c)
  let u := bad.foldl (fun t c => t.faultChain c (groupOf found c)) t
  let r : Recovery := ⟨found, good, [], 0, 0⟩
  if good.isEmpty then u.queueJobs r else { u with work := .judge r none }

/-- The end of a survey grant (R146). -/
def State.finishSurvey (s : State) : State :=
  let t := s.freePort
  match s.work with
  | .survey n found =>
    let r := s.slot n 0
    let found' := if r.liveHeader s.gen n then found ++ [liveSeg r n] else found
    if n + 1 < s.nseg then { t with work := .survey (n + 1) found' } else t.surveyEnd found'
  | _ => t

/-! ### Claim rebuild (R56, R152) -/

/-- The identity against which the records of a FAULTED context's segment are judged: the context's, or
for CHAIN the segment's own header's (R56). -/
def State.rebuildIdentity (s : State) (r : Recovery) (c : CtxNum) (x : ChainEntry) : Identity :=
  match s.ctx c with
  | .active (.faulted _ ⟨.chain, _, _⟩) e =>
    match r.found.find? (fun y => y.seg == x.seg) with
    | some y => s.liveIdentity y
    | none => ⟨s.gen, c, e.source, x.idx, e.seq⟩
  | .active _ e => ⟨s.gen, c, e.source, x.idx, e.seq⟩
  | .free => ⟨s.gen, c, 0, x.idx, 0#16⟩

/-- The fault position of a FAULTED context, if it has one (R18). -/
def State.faultPos (s : State) (c : CtxNum) : Option SlotPos :=
  match s.ctx c with
  | .active (.faulted _ f) _ => f.pos
  | _ => none

/-- The rebuild of one slot: a belonging PRE record that passes its check is claimed, unless its word is
claimed already, the table is full or the context holds QCLM claims (R56).  The faulty record, at the context's fault
position, is not taken (R18, R56).  DESIGN CHOICE: any other record that R56's three conditions take is claimed also
when its word lies in the journal window (R43; log 29). -/
def State.rebuildSlot (s : State) (c : CtxNum) (e : Identity) (seg k : Nat) : State :=
  let r := s.slot seg k
  if r.belongs e k && r.passes && r.isKind .pre && s.faultPos c != some ⟨seg, k⟩ &&
      decide (s.claimsHeld c < s.limits.qclm) then
    s.insertClaim (addrField r.w1) c
  else s

/-- The rebuild of `n` slots from slot `k`, ascending.  DESIGN CHOICE: a slot that does not belong is passed over, and
the slots after it are still judged, each by R56's own conditions (R32, R56; log 33). -/
def State.rebuildSlots (s : State) (c : CtxNum) (e : Identity) (seg : Nat) : Nat → Nat → State
  | 0, _ => s
  | n + 1, k => (s.rebuildSlot c e seg k).rebuildSlots c e seg n (k + 1)

/-- The end of a rebuild grant; with the last one recovery ends (R152, R153). -/
def State.finishRebuild (s : State) : State :=
  let t := s.freePort
  match s.work with
  | .rebuild r ((c, x) :: rest) =>
    let u := t.rebuildSlots c (s.rebuildIdentity r c x) x.seg 14 1
    if rest.isEmpty && s.mode == .recovering then u.recoveryDone r else { u with work := .rebuild r rest }
  | _ => t

/-! ### Tasks of the format and recovery work -/

/-- The final segment of the chain under judgement. -/
def finalSeg (r : Recovery) : Nat :=
  match r.toJudge with
  | c :: _ => ((groupOf r.found c).getLast?.map (·.seg)).getD 0
  | [] => 0

/-- The next step of the Replay Engine: of the format or recovery work, or of the head job (R75). -/
def State.dueTask (s : State) : Option Task :=
  match s.work with
  | .format _ => some .formatStep
  | .survey _ _ => some .survey
  | .judge _ none => some .judgeFinal
  | .judge _ (some _) => some .judgeSegment
  | .rebuild _ [] => none
  | .rebuild _ (_ :: _) => some .rebuild
  | .idle => s.headJob.bind s.jobTask
  | .replay _ => s.headJob.bind s.jobTask

/-- The accesses of a Replay Engine grant. -/
def State.taskPlan (s : State) : Task → List PlannedOp
  | .commitMarker c => s.markerPlan c .commit 0#32
  | .abortMarker c => s.markerPlan c .abort 0#32
  | .discardMarker c => s.markerPlan c .abort 1#32
  | .restore c pos found _ => s.restorePlan c pos found
  | .freeing c => s.freeingPlan c
  | .formatStep =>
    match s.work with
    | .format n => s.formatPlan n
    | _ => []
  | .survey =>
    match s.work with
    | .survey n _ => s.slotReads n 0
    | _ => []
  | .judgeFinal =>
    match s.work with
    | .judge r _ => s.slotsReads (finalSeg r) 1 15
    | _ => []
  | .judgeSegment =>
    match s.work with
    | .judge _ (some q) => s.slotsReads ((q.left.head?.map (·.seg)).getD 0) 1 14
    | _ => []
  | .rebuild =>
    match s.work with
    | .rebuild _ ((_, x) :: _) => s.slotsReads x.seg 1 14
    | _ => []
  | _ => []

end Sys2Proof.Machine
end

