-- ==== Sys2Proof/Machine/Runner.lean ====
section
/-! DEFINITION. How a grant row carries its grant: starting it when it is due, making its accesses, ending it (R74 to R77, log 4); and the grant given when PFAIL# falls. -/

namespace Sys2Proof.Machine

/-- The end of a grant, by its task.  Reports are applied here, before the arbiter decides (R76). -/
def State.finish (s : State) (g : Grant) : State :=
  match g.task with
  | .forwardedRead a => s.finishRead a
  | .forwardedWrite _ reload => s.finishWrite reload g.hits
  | .journalledWrite w => s.finishJournalled w g.hits
  | .armingRead i wanted => s.finishArming i wanted
  | .commitMarker c => s.finishReleasingMarker c
  | .discardMarker c => s.finishReleasingMarker c
  | .abortMarker c => s.finishAbortMarker c
  | .restore c pos found owned => (s.finishRestore c pos found owned g.hits).afterEngine
  | .freeing c => (s.finishFreeing c).afterEngine
  | .formatStep => s.finishFormat
  | .survey => s.finishSurvey
  | .judgeFinal => s.finishJudgeFinal
  | .judgeSegment => s.finishJudgeSegment
  | .rebuild => s.finishRebuild

/-- The grant ends, and the arbiter decides. -/
def State.finishGrant (s : State) : State :=
  match s.grant with
  | some g => (s.finish g).arbitrate
  | none => s

/-- Carry a started grant on: all its accesses and its end, or some accesses only. -/
def State.advance (s : State) (x : Extent) : State :=
  match s.grant with
  | none => s
  | some g =>
    match x with
    | .toEnd => ((s.setTodo []).performAll g.todo).finishGrant
    | .accesses n => (s.setTodo (g.todo.drop n)).performAll (g.todo.take n)

/-- A grant after its start step: carried on, or already ended by it, when the arbiter decides at once. -/
def State.afterStart (s : State) (x : Extent) : State :=
  match s.grant with
  | some _ => s.advance x
  | none => s.arbitrate

/-- A grant row takes effect when `r` holds the port and either the grant in progress is of this row, or no
grant has started, the mode is not FROZEN, where no grant starts (R77, R119), and `start` gives this row's
start.  Otherwise the step is not due and nothing happens (log 3). -/
def State.grantRow (s : State) (r : Requester) (mine : Task → Bool) (start : Option State) (x : Extent) : State :=
  if s.holder = some r then
    match s.grant with
    | some g => if mine g.task then s.advance x else s
    | none =>
      match s.mode, start with
      | .frozen, _ => s
      | _, some t => t.afterStart x
      | _, none => s
  else s

/-- The start of a Replay Engine grant: the head job's record is made at its first step (R95). -/
def State.startTask (s : State) (t : Task) : State :=
  State.startGrant
    (match s.work with
      | .idle => { s with job := s.headJob }
      | .replay _ => { s with job := s.headJob }
      | _ => s)
    t (s.taskPlan t)

/-- A row of the Replay Engine or of the format and recovery work. -/
def State.engineRow (s : State) (mine : Task → Bool) (x : Extent) : State :=
  s.grantRow .be mine ((s.dueTask.filter mine).map s.startTask) x

/-- The start of a host-path grant for the access that waits for it, if `fits` picks it by route and direction. -/
def State.hostStart (s : State) (fits : Route → Bool → Bool) : Option State :=
  match s.access with
  | some h =>
    match h.place with
    | .toMemory r => if fits r h.acc.write then some (s.startHost h r) else none
    | .held _ => none
  | none => none

/-- A host-path row, for the accesses `fits` picks by route and direction. -/
def State.hostRow (s : State) (mine : Task → Bool) (fits : Route → Bool → Bool) (x : Extent) : State :=
  s.grantRow .hp mine (s.hostStart fits) x

/-- The guard arming row. -/
def State.armingRow (s : State) (mine : Task → Bool) (x : Extent) : State := s.grantRow .ga mine (some s.startArming) x

/-- The grant that the arbiter has given is in progress from that moment (R76), also when no row has carried it yet:
its start step is made, at the latest, when PFAIL# falls, in the mode in which the port was given (R72, R77, R113,
log 31).  A grant of guard arming whose read has not begun ends without it: an ARMING entry stays ARMING (R119,
R141, log 31).  A grant whose start step was made before, and a free port, are left as they are. -/
def State.startGiven (s : State) : State :=
  match s.grant, s.holder with
  | none, some .hp => (s.hostStart fun _ _ => true).getD s.freePort
  | none, some .be => (s.dueTask.map s.startTask).getD s.freePort
  | none, some .ga => s.freePort
  | _, _ => s

end Sys2Proof.Machine
end

