-- ==== Sys2Proof/Machine/EpochCommands.lean ====
section
/-! DEFINITION. Commands on epochs: OPEN, COMMIT, ABORT, TOUCH, RETRY, DISCARD, GET_CONTEXT, and the expiry of an idle timer (Chapters 1 and 6). -/

namespace Sys2Proof.Machine

/-- OPEN: checks in the order of R6, effect of R7; a held write of the source is then classified again
(R70). -/
def execOpenEpoch (source : Byte) (s : State) : Host.Outcome State Fault Refusal :=
  .next (s.frame fun s =>
    if s.mode ≠ .run then s.answer .wrongMode
    else
      match asSource source with
      | none => s.answer .badArgument
      | some i =>
        if (s.source i).fenced then s.answer .fenced
        else if (s.source i).bound.isSome then s.answer .alreadyOpen
        else
          match s.freeContext, s.pool with
          | none, _ => s.answer .noContext
          | some _, [] => s.answer .noSegment
          | some c, seg :: rest =>
            (((s.openWith c i seg rest).respond .ok (byte1 c.val :: be16 s.epochSeq)).deliver
              ⟨some i, [], false⟩).arbitrate)

/-- Whether the grant in progress has moved entry `i` in a way that a COMMIT sees at its end alone (R125, R126). -/
def State.movesLate (s : State) (i : Fin 8) : Bool := s.grant.any fun g => g.late.contains i

/-- Whether a COMMIT finds entry `i` not in MATCH (R125): its state as it stands, but for a move that counts from
the end of the grant in progress.  SET_GUARD overrides such a move, since it makes the entry ARMING or UNARMED. -/
def State.offMatch (s : State) (i : Fin 8) : Bool :=
  match (s.guard i).state with
  | .arming => true
  | .unarmed => false
  | .isMismatch => !s.movesLate i
  | .isMatch => s.movesLate i

/-- Whether an enabled HOLD_COMMIT guard holds back a commit of context `c` (R96, R125). -/
def State.guardHeld (s : State) (c : CtxNum) : Bool :=
  eight.any fun i =>
    (s.guard i).enable && (s.guard i).action == .holdCommit && ((s.guard i).bound.isNone || (s.guard i).bound == some c) &&
      s.offMatch i

/-- COMMIT: checks in the order of R96; an accepted commit is taken by the Context Table (R15, R17). -/
def execCommit (context : Byte) (s : State) : Host.Outcome State Fault Refusal :=
  .next (s.frame fun s =>
    if s.mode ≠ .run then s.answer .wrongMode
    else
      match asCtx context with
      | none => s.answer .badArgument
      | some c =>
        if !(s.ctx c).isOpen then s.answer .wrongState
        else if s.guardHeld c then s.answer .guardHeld
        else ((s.requestCommit c).answer .accepted).arbitrate)

/-- ABORT: checks in the order of R100; a rollback request with cause ABORT_CMD (R16, R17). -/
def execAbort (context : Byte) (s : State) : Host.Outcome State Fault Refusal :=
  .next (s.frame fun s =>
    if s.mode ≠ .run then s.answer .wrongMode
    else
      match asCtx context with
      | none => s.answer .badArgument
      | some c =>
        if !(s.ctx c).isOpen then s.answer .wrongState
        else ((s.requestRollback c .abortCmd).answer .accepted).arbitrate)

/-- TOUCH: the idle timer of an OPEN context is reloaded (R14). -/
def execTouch (context : Byte) (s : State) : Host.Outcome State Fault Refusal :=
  .next (s.frame fun s =>
    if s.mode ≠ .run then s.answer .wrongMode
    else
      match asCtx context with
      | none => s.answer .badArgument
      | some c => if !(s.ctx c).isOpen then s.answer .wrongState else (s.reloadIdle c).answer .ok)

/-- RETRY: a FAULTED context becomes ROLLING_BACK again and resumes at its fault position; CHAIN is refused
(R19, R107). -/
def execRetry (context : Byte) (s : State) : Host.Outcome State Fault Refusal :=
  .next (s.frame fun s =>
    if s.mode ≠ .run then s.answer .wrongMode
    else
      match asCtx context with
      | none => s.answer .badArgument
      | some c =>
        match s.ctx c with
        | .active (.faulted k f) e =>
          if f.kind = .chain then s.answer .wrongState
          else (((s.setCtx c (.active (.rollingBack k) e)).enqueue c f.pos).answer .accepted).arbitrate
        | _ => s.answer .wrongState)

/-- DISCARD: a FAULTED context becomes DISCARDING (R19, R108). -/
def execDiscard (context : Byte) (s : State) : Host.Outcome State Fault Refusal :=
  .next (s.frame fun s =>
    if s.mode ≠ .run then s.answer .wrongMode
    else
      match asCtx context with
      | none => s.answer .badArgument
      | some c =>
        match s.ctx c with
        | .active (.faulted _ _) e =>
          (((s.setCtx c (.active .discarding e)).enqueue c none).answer .accepted).arbitrate
        | _ => s.answer .wrongState)

/-- GET_CONTEXT: the record of a context, in every mode (R20). -/
def execGetContext (context : Byte) (s : State) : Host.Outcome State Fault Refusal :=
  .next (s.frame fun s =>
    match asCtx context with
    | some c => s.respond .ok (s.contextBytes c)
    | none => s.answer .badArgument)

/-- IDLE_EXPIRY: the idle timer of a context runs out.  It is due while the context is OPEN with a running
timer and the mode is RUN, whatever time was left (R12, R13, log 6). -/
def execIdleExpiry (c : CtxNum) (s : State) : Host.Outcome State Fault Refusal :=
  .next (
    match s.mode, (s.ctx c).idle with
    | .run, some _ => (s.requestRollback c .idle).arbitrate
    | _, _ => s)

end Sys2Proof.Machine
end

