-- ==== Sys2Proof/Machine/GrantCommands.lean ====
section
/-! DEFINITION. Host strobes, the expiry of a hold, and the grant rows of the memory port (Chapters 3 to 9). -/

namespace Sys2Proof.Machine

/-- HOST_ACCESS_START: the access is taken, HERR is deasserted, and it is classified.  A strobe while an
access is in the part has no effect, nor has one while a reset is in force (R58, R59, R140). -/
def execHostAccessStart (addr : Addr) (be : BitVec 4) (src : SrcNum) (write : Bool) (data : Word) (s : State) :
    Host.Outcome State Fault Refusal :=
  .next (
    if s.inReset || s.access.isSome then s
    else
      (State.classifyAgain { s with herr := false } ⟨⟨addr, be, src, write, data⟩, .toMemory .forwarded, none⟩).arbitrate)

/-- STROBE_IGNORED: no effect (R58). -/
def execStrobeIgnored (s : State) : Host.Outcome State Fault Refusal := .next s

/-- HOLD_EXPIRED: the held access is refused, counted in the group of its hold's reason; due while an
access is held in RUN, whatever time was left (R71, log 6). -/
def execHoldExpired (s : State) : Host.Outcome State Fault Refusal :=
  .next (
    match s.mode, s.access with
    | .run, some ⟨a, .held r, _⟩ => (s.refuse a (.holdExpired r)).arbitrate
    | _, _ => s)

/-- FORWARDED_READ (R66, R67). -/
def execForwardedRead (x : Extent) (s : State) : Host.Outcome State Fault Refusal :=
  .next (s.hostRow (fun t => match t with | .forwardedRead _ => true | _ => false)
    (fun r write => r == .forwarded && !write) x)

/-- FORWARDED_WRITE (R66, R67). -/
def execForwardedWrite (x : Extent) (s : State) : Host.Outcome State Fault Refusal :=
  .next (s.hostRow (fun t => match t with | .forwardedWrite _ _ => true | _ => false)
    (fun r write => r == .forwarded && write) x)

/-- JOURNALLED_WRITE_GRANT (R79 to R89). -/
def execJournalledWriteGrant (x : Extent) (s : State) : Host.Outcome State Fault Refusal :=
  .next (s.hostRow (fun t => match t with | .journalledWrite _ => true | _ => false)
    (fun r _ => match r with | .journalled _ _ => true | .forwarded => false) x)

/-- ARMING_READ (R118). -/
def execArmingRead (x : Extent) (s : State) : Host.Outcome State Fault Refusal :=
  .next (s.armingRow (fun t => match t with | .armingRead _ _ => true | _ => false) x)

/-- COMMIT_MARKER (R97). -/
def execCommitMarker (x : Extent) (s : State) : Host.Outcome State Fault Refusal :=
  .next (s.engineRow (fun t => match t with | .commitMarker _ => true | _ => false) x)

/-- RESTORE_STEP (R102 to R104, R106). -/
def execRestoreStep (x : Extent) (s : State) : Host.Outcome State Fault Refusal :=
  .next (s.engineRow (fun t => match t with | .restore _ _ _ _ => true | _ => false) x)

/-- ABORT_MARKER (R105). -/
def execAbortMarker (x : Extent) (s : State) : Host.Outcome State Fault Refusal :=
  .next (s.engineRow (fun t => match t with | .abortMarker _ => true | _ => false) x)

/-- DISCARD_MARKER (R109). -/
def execDiscardMarker (x : Extent) (s : State) : Host.Outcome State Fault Refusal :=
  .next (s.engineRow (fun t => match t with | .discardMarker _ => true | _ => false) x)

/-- FREEING_STEP (R40, R98, R99). -/
def execFreeingStep (x : Extent) (s : State) : Host.Outcome State Fault Refusal :=
  .next (s.engineRow (fun t => match t with | .freeing _ => true | _ => false) x)

/-- FORMAT_STEP (R143). -/
def execFormatStep (x : Extent) (s : State) : Host.Outcome State Fault Refusal :=
  .next (s.engineRow (fun t => match t with | .formatStep => true | _ => false) x)

/-- SURVEY_STEP (R146, R147). -/
def execSurveyStep (x : Extent) (s : State) : Host.Outcome State Fault Refusal :=
  .next (s.engineRow (fun t => match t with | .survey => true | _ => false) x)

/-- JUDGEMENT_FINAL_SEGMENT (R148). -/
def execJudgementFinalSegment (x : Extent) (s : State) : Host.Outcome State Fault Refusal :=
  .next (s.engineRow (fun t => match t with | .judgeFinal => true | _ => false) x)

/-- JUDGEMENT_SEGMENT (R149). -/
def execJudgementSegment (x : Extent) (s : State) : Host.Outcome State Fault Refusal :=
  .next (s.engineRow (fun t => match t with | .judgeSegment => true | _ => false) x)

/-- CLAIM_REBUILD (R56, R152). -/
def execClaimRebuild (x : Extent) (s : State) : Host.Outcome State Fault Refusal :=
  .next (s.engineRow (fun t => match t with | .rebuild => true | _ => false) x)

end Sys2Proof.Machine
end

