-- ==== Sys2Proof/Machine/PortCommands.lean ====
section
/-! DEFINITION. Commands of the management port on its own state: identity, status, limits, events, STAT lines, and frames that are no command (Chapter 10). -/

namespace Sys2Proof.Machine

/-- GET_ID: vendor, part and revision, in every mode (R160). -/
def execGetId (s : State) : Host.Outcome State Fault Refusal :=
  .next (s.frame fun s => s.respond .ok (be16 Config.vendor ++ be16 Config.part ++ [Config.revision]))

/-- GET_STATUS: the 23 status bytes, in every mode (R160). -/
def execGetStatus (s : State) : Host.Outcome State Fault Refusal :=
  .next (s.frame fun s => s.respond .ok s.statusBytes)

/-- POP_EVENT: the oldest record is removed and returned, or EMPTY (R163). -/
def execPopEvent (s : State) : Host.Outcome State Fault Refusal :=
  .next (s.frame fun s =>
    match s.events with
    | [] => s.answer .empty
    | e :: rest => State.respond { s with events := rest } .ok e.bytes)

/-- ACK_LOST: the lost-event count is returned and set to 0 (R164). -/
def execAckLost (s : State) : Host.Outcome State Fault Refusal :=
  .next (s.frame fun s => State.respond { s with lostEvents := 0#8 } .ok [s.lostEvents])

/-- REPEAT_RESPONSE: the last response is sent again and kept (R158). -/
def execRepeatResponse (s : State) : Host.Outcome State Fault Refusal :=
  .next (s.frame fun s => { s with sdo := s.lastResponse })

/-- SET_LIMITS: checks in the order of R161, then all seven limits are replaced. -/
def execSetLimits (qseg qclm : BitVec 16) (jfull : Byte) (holdlim idlelim : BitVec 16) (lowwater tbdiv : Byte)
    (s : State) : Host.Outcome State Fault Refusal :=
  .next (s.frame fun s =>
    if s.mode = .frozen ∨ s.mode = .formatting ∨ s.mode = .recovering then s.answer .wrongMode
    else
      match asLimits qseg qclm jfull holdlim idlelim lowwater tbdiv with
      | none => s.answer .badArgument
      | some l => if s.quiet then State.answer { s with limits := l } .ok else s.answer .busy)

/-- GET_LIMITS: the seven limits, in every mode (R161). -/
def execGetLimits (s : State) : Host.Outcome State Fault Refusal :=
  .next (s.frame fun s => s.respond .ok s.limits.bytes)

/-- SET_EVENT_MASK: bits 1 to 9 only (R164). -/
def execSetEventMask (mask : BitVec 16) (s : State) : Host.Outcome State Fault Refusal :=
  .next (s.frame fun s =>
    if s.mode = .frozen then s.answer .wrongMode
    else if mask &&& 0xFC01#16 ≠ 0#16 then s.answer .badArgument
    else State.answer { s with eventMask := mask } .ok)

/-- SET_STAT_SELECT: both selections are replaced (R165). -/
def execSetStatSelect (stat0 stat1 : Byte) (s : State) : Host.Outcome State Fault Refusal :=
  .next (s.frame fun s =>
    if s.mode = .frozen then s.answer .wrongMode
    else
      match asEight stat0, asEight stat1 with
      | some a, some b => State.answer { s with stat0 := a, stat1 := b } .ok
      | _, _ => s.answer .badArgument)

/-- BAD_OPCODE: the answer becomes the last response (R157). -/
def execBadOpcode (s : State) : Host.Outcome State Fault Refusal := .next (s.frame fun s => s.answer .badOpcode)

/-- SHORT_FRAME: only the short-frame count changes, staying at 255; nothing is answered, and SDO sends 0x00
throughout (R155, R157). -/
def execShortFrame (s : State) : Host.Outcome State Fault Refusal :=
  .next (s.frame fun s => { s with shortFrames := saturate s.shortFrames, sdo := [] })

end Sys2Proof.Machine
end

