-- ==== Sys2Proof/Machine/Power.lean ====
section
/-! DEFINITION. PFAIL#, reset, and the passing of time (R12, R68, R71, R72, R140, R141). -/

namespace Sys2Proof.Machine

/-- The access in the part when PFAIL# falls: refused FROZEN at once when held or waiting for a grant; in a
grant it stays, for the grant completes (R72). -/
def State.freezeAccess (s : State) : State :=
  match s.access with
  | none => s
  | some h =>
    match h.place with
    | .held _ => s.refuse h.acc .frozen
    | .toMemory _ => if s.holder = some .hp then s else s.refuse h.acc .frozen

/-- PFAIL_ASSERTED: the mode becomes FROZEN; the grant in progress stays to be completed and no other
starts (R141).  A grant that the arbiter has given is one in progress (R76, log 31).  While a reset is in force only
the level is taken (R140). -/
def execPfailAsserted (s : State) : Host.Outcome State Fault Refusal :=
  .next (
    if s.inReset || s.mode == .frozen then { s with pfail := true }
    else State.freezeAccess { State.startGiven { s with pfail := true } with mode := .frozen })

/-- PFAIL_DEASSERTED: the level alone; FROZEN stays (R141). -/
def execPfailDeasserted (s : State) : Host.Outcome State Fault Refusal := .next { s with pfail := false }

/-- RESET: every on-chip state returns to its reset value; the attached memory, the PFAIL# level and the
command queue are not on-chip state.  A grant in progress is cut where it stands (R140). -/
def execReset (s : State) : Host.Outcome State Fault Refusal :=
  .next { State.reset with pending := s.pending, mem := s.mem, pfail := s.pfail, choices := s.choices, inReset := true }

/-- RESET_END: the mode becomes FROZEN at once when PFAIL# is asserted, and stays GATED otherwise (R140). -/
def execResetEnd (s : State) : Host.Outcome State Fault Refusal :=
  .next (
    if s.inReset then { s with inReset := false, mode := if s.pfail then .frozen else s.mode }
    else s)

/-! ### Time: one microsecond of the timebase (log 5) -/

/-- The hold timer counts down while the access is held in RUN, and expires at 0 (R68, R71). -/
def State.tickHold (s : State) : State :=
  match s.access with
  | some ⟨a, .held r, some n⟩ =>
    if n ≤ 1 then s.refuse a (.holdExpired r) else { s with access := some ⟨a, .held r, some (n - 1)⟩ }
  | _ => s

/-- An idle timer counts down in milliseconds, and expires at 0 (R12, R13). -/
def State.tickIdle (s : State) (c : CtxNum) : State :=
  match s.ctx c with
  | .active (.opened (some t)) e =>
    if t.us + 1 < 1000 then s.setCtx c (.active (.opened (some ⟨t.ms, t.us + 1⟩)) e)
    else if t.ms ≤ 1 then s.requestRollback c .idle
    else s.setCtx c (.active (.opened (some ⟨t.ms - 1, 0⟩)) e)
  | _ => s

/-- One microsecond passes: in RUN the hold timer and then the idle timers in ascending context number
count; in every other mode no timer does (R12, R68). -/
def State.tick (s : State) : State :=
  if s.mode = .run ∧ s.inReset = false then (eight.foldl State.tickIdle s.tickHold).arbitrate else s

end Sys2Proof.Machine
end

