-- ==== Sys2Proof/Machine/TableCommands.lean ====
section
/-! DEFINITION. Commands on the geometry, the device mode, the region table, the guards and the accounting (R21, R63, R116, R117, R129, R135 to R137, R143, R145, R154). -/

namespace Sys2Proof.Machine

/-- SET_GEOMETRY: GATED only; the geometry is replaced and the pool emptied, with no event (R21, R143). -/
def execSetGeometry (jbase : WideAddr) (nseg : BitVec 16) (gen : Byte) (s : State) : Host.Outcome State Fault Refusal :=
  .next (s.frame fun s =>
    if s.mode ≠ .gated then s.answer .wrongMode
    else
      match asGeometry jbase nseg with
      | none => s.answer .badArgument
      | some (j, n) => State.answer { s with jbase := j, nseg := n, gen := gen, pool := [] } .ok)

/-- FORMAT: the pool is emptied and the format work begins (R143). -/
def execFormat (s : State) : Host.Outcome State Fault Refusal :=
  .next (s.frame fun s =>
    if s.mode ≠ .gated then s.answer .wrongMode
    else if s.nseg = 0 then s.answer .wrongState
    else (State.answer { s with pool := [], mode := .formatting, work := .format 0 } .accepted).arbitrate)

/-- RECOVER: the pool is emptied and the survey begins (R145). -/
def execRecover (s : State) : Host.Outcome State Fault Refusal :=
  .next (s.frame fun s =>
    if s.mode ≠ .gated then s.answer .wrongMode
    else if s.nseg = 0 then s.answer .wrongState
    else (State.answer { s with pool := [], mode := .recovering, work := .survey 0 [] } .accepted).arbitrate)

/-- GATE: RUN only, every context FREE and the engine queue empty (R154). -/
def execGate (s : State) : Host.Outcome State Fault Refusal :=
  .next (s.frame fun s =>
    if s.mode ≠ .run then s.answer .wrongMode
    else if s.quiet then State.answer { s with mode := .gated } .ok
    else s.answer .busy)

/-- SET_REGION: the entry is replaced in whole (R63). -/
def execSetRegion (index enable mode : Byte) (base limit : WideAddr) (s : State) : Host.Outcome State Fault Refusal :=
  .next (s.frame fun s =>
    if s.mode = .frozen then s.answer .wrongMode
    else
      match asSixteen index, asRegion enable mode base limit with
      | some i, some r =>
        if s.quiet then State.answer { s with regions := s.regions.set i r } .ok else s.answer .busy
      | _, _ => s.answer .badArgument)

/-- GET_REGION: in every mode (R63). -/
def execGetRegion (index : Byte) (s : State) : Host.Outcome State Fault Refusal :=
  .next (s.frame fun s =>
    match asSixteen index with
    | some i => s.respond .ok (s.region i).bytes
    | none => s.answer .badArgument)

/-- The arming read under way for entry `i` is no longer wanted (R118). -/
def State.dropArming (s : State) (i : Fin 8) : State :=
  { s with grant := s.grant.map fun g =>
      match g.task with
      | .armingRead j _ => if j = i then { g with task := .armingRead j false } else g
      | _ => g }

/-- SET_GUARD: the entry is replaced in whole and becomes ARMING, or UNARMED when disabled (R116, R118). -/
def execSetGuard (index enable : Byte) (addr : WideAddr) (expected mask : Word) (trigger action bound : Byte)
    (s : State) : Host.Outcome State Fault Refusal :=
  .next (s.frame fun s =>
    if s.mode = .frozen then s.answer .wrongMode
    else
      match asEight index, asGuard enable addr expected mask trigger action bound with
      | some i, some g =>
        if g.enable && s.inWindow g.addr then s.answer .badArgument
        else (((s.setGuard i g).dropArming i).answer .ok).arbitrate
      | _, _ => s.answer .badArgument)

/-- GET_GUARD: in every mode (R117). -/
def execGetGuard (index : Byte) (s : State) : Host.Outcome State Fault Refusal :=
  .next (s.frame fun s =>
    match asEight index with
    | some i => s.respond .ok (s.guard i).bytes
    | none => s.answer .badArgument)

/-- SET_ACCOUNTING: the three settings of a group are replaced (R129). -/
def execSetAccounting (group threshold holdMode actions : Byte) (s : State) : Host.Outcome State Fault Refusal :=
  .next (s.frame fun s =>
    if s.mode = .frozen then s.answer .wrongMode
    else
      match asGroup group, asSettings threshold holdMode actions with
      | some g, some x => (s.setSettings g x).answer .ok
      | _, _ => s.answer .badArgument)

/-- GET_COUNTERS: in every mode (R137). -/
def execGetCounters (source : Byte) (s : State) : Host.Outcome State Fault Refusal :=
  .next (s.frame fun s =>
    match asSource source with
    | some i => s.respond .ok (s.counterBytes i)
    | none => s.answer .badArgument)

/-- Clear one counter and its flag when the group's mask bit is set (R136). -/
def State.clearIf (s : State) (i : SrcNum) (g : Group) (wanted : Bool) : State :=
  if wanted then s.setCounter i g Counter.reset else s

/-- CLEAR_COUNTERS: the groups whose mask bit is set (R136). -/
def execClearCounters (source mask : Byte) (s : State) : Host.Outcome State Fault Refusal :=
  .next (s.frame fun s =>
    if s.mode = .frozen then s.answer .wrongMode
    else
      match asSource source with
      | some i =>
        if 7 < mask.toNat then s.answer .badArgument
        else
          (((s.clearIf i .conflict (mask.getLsbD 0)).clearIf i .capacity (mask.getLsbD 1)).clearIf i .policy
            (mask.getLsbD 2)).answer .ok
      | none => s.answer .badArgument)

/-- UNFENCE: the fence flag of a source is cleared (R135). -/
def execUnfence (source : Byte) (s : State) : Host.Outcome State Fault Refusal :=
  .next (s.frame fun s =>
    if s.mode = .frozen then s.answer .wrongMode
    else
      match asSource source with
      | some i => (s.setFence i false).answer .ok
      | none => s.answer .badArgument)

end Sys2Proof.Machine
end

