-- ==== Sys2Proof/Machine/Dispatch.lean ====
section
/-! DEFINITION. The meaning of every command: one arm per row of the opcode table, on everything but the queue. -/

namespace Sys2Proof.Machine

def exec (i : Instr) (s : State) : Host.Outcome State Fault Refusal :=
  match i with
  | .getId => Sys2Proof.Machine.execGetId s
  | .getStatus => Sys2Proof.Machine.execGetStatus s
  | .popEvent => Sys2Proof.Machine.execPopEvent s
  | .ackLost => Sys2Proof.Machine.execAckLost s
  | .repeatResponse => Sys2Proof.Machine.execRepeatResponse s
  | .setGeometry jbase nseg gen => Sys2Proof.Machine.execSetGeometry jbase nseg gen s
  | .format => Sys2Proof.Machine.execFormat s
  | .recover => Sys2Proof.Machine.execRecover s
  | .gate => Sys2Proof.Machine.execGate s
  | .setLimits qseg qclm jfull holdlim idlelim lowwater tbdiv => Sys2Proof.Machine.execSetLimits qseg qclm jfull holdlim idlelim lowwater tbdiv s
  | .getLimits => Sys2Proof.Machine.execGetLimits s
  | .setRegion index enable mode base limit => Sys2Proof.Machine.execSetRegion index enable mode base limit s
  | .getRegion index => Sys2Proof.Machine.execGetRegion index s
  | .setGuard index enable addr expected mask trigger action bound => Sys2Proof.Machine.execSetGuard index enable addr expected mask trigger action bound s
  | .getGuard index => Sys2Proof.Machine.execGetGuard index s
  | .openEpoch source => Sys2Proof.Machine.execOpenEpoch source s
  | .commit context => Sys2Proof.Machine.execCommit context s
  | .abort context => Sys2Proof.Machine.execAbort context s
  | .touch context => Sys2Proof.Machine.execTouch context s
  | .retry context => Sys2Proof.Machine.execRetry context s
  | .discard context => Sys2Proof.Machine.execDiscard context s
  | .getContext context => Sys2Proof.Machine.execGetContext context s
  | .setAccounting group threshold holdMode actions => Sys2Proof.Machine.execSetAccounting group threshold holdMode actions s
  | .getCounters source => Sys2Proof.Machine.execGetCounters source s
  | .clearCounters source mask => Sys2Proof.Machine.execClearCounters source mask s
  | .unfence source => Sys2Proof.Machine.execUnfence source s
  | .setEventMask mask => Sys2Proof.Machine.execSetEventMask mask s
  | .setStatSelect stat0 stat1 => Sys2Proof.Machine.execSetStatSelect stat0 stat1 s
  | .badOpcode _ => Sys2Proof.Machine.execBadOpcode s
  | .shortFrame => Sys2Proof.Machine.execShortFrame s
  | .hostAccessStart addr be src write data => Sys2Proof.Machine.execHostAccessStart addr be src write data s
  | .strobeIgnored _ _ _ _ _ => Sys2Proof.Machine.execStrobeIgnored s
  | .forwardedRead x => Sys2Proof.Machine.execForwardedRead x s
  | .forwardedWrite x => Sys2Proof.Machine.execForwardedWrite x s
  | .journalledWriteGrant x => Sys2Proof.Machine.execJournalledWriteGrant x s
  | .armingRead x => Sys2Proof.Machine.execArmingRead x s
  | .commitMarker x => Sys2Proof.Machine.execCommitMarker x s
  | .restoreStep x => Sys2Proof.Machine.execRestoreStep x s
  | .abortMarker x => Sys2Proof.Machine.execAbortMarker x s
  | .discardMarker x => Sys2Proof.Machine.execDiscardMarker x s
  | .freeingStep x => Sys2Proof.Machine.execFreeingStep x s
  | .formatStep x => Sys2Proof.Machine.execFormatStep x s
  | .surveyStep x => Sys2Proof.Machine.execSurveyStep x s
  | .judgementFinalSegment x => Sys2Proof.Machine.execJudgementFinalSegment x s
  | .judgementSegment x => Sys2Proof.Machine.execJudgementSegment x s
  | .claimRebuild x => Sys2Proof.Machine.execClaimRebuild x s
  | .idleExpiry context => Sys2Proof.Machine.execIdleExpiry context s
  | .holdExpired => Sys2Proof.Machine.execHoldExpired s
  | .pfailAsserted => Sys2Proof.Machine.execPfailAsserted s
  | .pfailDeasserted => Sys2Proof.Machine.execPfailDeasserted s
  | .reset => Sys2Proof.Machine.execReset s
  | .resetEnd => Sys2Proof.Machine.execResetEnd s

end Sys2Proof.Machine
end

