-- ==== Sys2Proof/Safety.lean ====
section
/-! DEFINITION. What a safe state is: the laws that the spec gives for every moment of a run, as predicates on State, and the small words that statements about commands use. -/

namespace Sys2Proof

/-! ### Kinds of commands -/

/-- The rows that are grants of the memory port: the only commands that access the attached memory (R74). -/
def Instr.isGrant : Instr → Bool
  | .forwardedRead _ | .forwardedWrite _ | .journalledWriteGrant _ | .armingRead _ | .commitMarker _ | .restoreStep _
  | .abortMarker _ | .discardMarker _ | .freeingStep _ | .formatStep _ | .surveyStep _ | .judgementFinalSegment _
  | .judgementSegment _ | .claimRebuild _ => true
  | _ => false

/-- The rows that are frames of the management port. -/
def Instr.isFrame (c : Instr) : Bool := (encodeFrame c).isSome

/-- The commands that every mode answers (R142, R168), and the two frames that are no command (R157). -/
def Instr.isAnsweredInFrozen : Instr → Bool
  | .getId | .getStatus | .popEvent | .ackLost | .repeatResponse | .getLimits | .getRegion _ | .getGuard _
  | .getContext _ | .getCounters _ | .badOpcode _ | .shortFrame => true
  | _ => false

end Sys2Proof

namespace Sys2Proof.Machine

/-! ### Words of statements -/

/-- The state after a command that only answered with the bytes `r` (R156). -/
def State.replied (s : State) (r : List Byte) : State := { s with sdo := r, lastResponse := r }

/-- The journal area fits the memory (R21), as SET_GEOMETRY leaves it. -/
def State.areaFits (s : State) : Prop := s.jbase.toNat + Config.segmentWords * s.nseg ≤ Config.memoryWords

/-- The addresses of the four words of slot `k` of segment `n` (R23). -/
def State.slotWords (s : State) (n k : Nat) : List Addr :=
  [s.slotAddr n k 0, s.slotAddr n k 1, s.slotAddr n k 2, s.slotAddr n k 3]

/-- Every byte of memory outside the words at the listed addresses reads as before. -/
def Memory.SameOutside (m m' : List Host.Cell) (l : List Addr) : Prop :=
  ∀ k, (∀ a ∈ l, ∀ i < 4, k ≠ byteKey a i) → Memory.byte m' k = Memory.byte m k

/-- The words of slot `k` of segment `n` in a memory (R23). -/
def State.slotIn (s : State) (m : List Host.Cell) (n k : Nat) : Record :=
  ⟨Memory.word m (s.slotAddr n k 0), Memory.word m (s.slotAddr n k 1), Memory.word m (s.slotAddr n k 2),
    Memory.word m (s.slotAddr n k 3)⟩

/-- The port has fallen free after a grant of `r` (R76). -/
def State.freed (s : State) (r : Requester) : State := { s with holder := none, grant := none, lastHolder := r }

/-- Whether a HOLD_COMMIT guard holds back the commit of context `c` (R96, R125).  A move of its entry that the
grant in progress made late counts from the end of that grant (R125, R126). -/
def State.HoldsBack (s : State) (c : CtxNum) : Prop :=
  ∃ i, (s.guard i).enable = true ∧ (s.guard i).action = .holdCommit ∧
    ((s.guard i).bound = none ∨ (s.guard i).bound = some c) ∧
    let late := ∃ g, s.grant = some g ∧ i ∈ g.late
    ((s.guard i).state = .arming ∨ ((s.guard i).state = .isMismatch ∧ ¬ late) ∨ ((s.guard i).state = .isMatch ∧ late))

/-! ### The laws of a safe state -/

/-- Memory is in its canonical form. -/
def State.MemoryCanonical (s : State) : Prop := Memory.wf s.mem = true

/-- The event queue holds at most 32 records (R162). -/
def State.EventsBounded (s : State) : Prop := s.events.length ≤ 32

/-- The Claim Table holds at most 512 claims, and no word address twice (R43). -/
def State.ClaimsProper (s : State) : Prop := s.claims.length ≤ 512 ∧ (s.claims.map (·.addr)).Nodup

/-- Each bound context is OPEN for the source that is bound to it, and every OPEN context is bound (R4).  The
last three clauses say where the modes leave no OPEN context at all: with format or recovery work in force, and
in GATED (R138, R145, R154). -/
structure State.BindingsProper (s : State) : Prop where
  bound : ∀ i c, (s.source i).bound = some c → ∃ t e, s.ctx c = .active (.opened t) e ∧ e.source = i
  opened : ∀ c t e, s.ctx c = .active (.opened t) e → (s.source e.source).bound = some c
  work : s.work ≠ .idle → ∀ c, (s.ctx c).isOpen = false
  run : s.mode = .run → s.work = .idle
  gated : s.mode = .gated → s.work = .idle ∧ ∀ c, s.ctx c = .free

/-- The context that a task of the head job works for. -/
def Task.jobCtx : Task → Option CtxNum
  | .commitMarker c | .abortMarker c | .discardMarker c | .freeing c => some c
  | .restore c _ _ _ => some c
  | _ => none

/-- Whether a context is in a state with a job: COMMITTING, ROLLING_BACK or DISCARDING (1.2). -/
def Context.hasJob : Context → Bool
  | .active .committing _ | .active (.rollingBack _) _ | .active .discarding _ => true
  | _ => false

/-- Whether work reads the journal before any job is queued. -/
def Work.isReading : Work → Bool
  | .format _ | .survey _ _ | .judge _ _ => true
  | _ => false

/-- The engine queue holds each context at most once, and only contexts with a job (R94, 1.2).  The last four
clauses tie the engine's record and a job's grant to the head entry, and say that nothing is queued in GATED or
before the judgement has ended (R95, R145, R150). -/
structure State.QueueProper (s : State) : Prop where
  once : (s.queue.map (·.ctx)).Nodup
  jobs : ∀ q ∈ s.queue, (s.ctx q.ctx).hasJob = true
  head : ∀ j, s.job = some j → s.queue.head?.map (·.ctx) = some j.ctx
  task : ∀ g c, s.grant = some g → g.task.jobCtx = some c → s.queue.head?.map (·.ctx) = some c
  reading : s.work.isReading = true → s.queue = []
  gated : s.mode = .gated → s.queue = []

/-- The segment numbers in the chains of all contexts, in ascending context number (R38). -/
def State.chainSegs (s : State) : List Nat := eight.flatMap fun c => ((s.ctx c).epoch.elim [] (·.chain)).map (·.seg)

/-- A safe state: what every step keeps. -/
structure State.Safe (s : State) : Prop where
  memory : s.MemoryCanonical
  events : s.EventsBounded
  claims : s.ClaimsProper
  bindings : s.BindingsProper

end Sys2Proof.Machine
end

