-- ==== Sys2Proof/Certificates/Slice0/Obligations.lean ====
section
/-! DEFINITION. The statements for the provers, one per obligation of OBLIGATIONS.json. -/

open Sys2Proof Sys2Proof.Machine

/-! ### The queue of commands, and frames -/

/-- A step with commands waiting runs the first of them, on the state with the queue's rest.  That commands come as a
queue whose first is taken next is the model's choice (log 23). -/
def Obligations.StepRunsFrontCommand : Prop :=
  ∀ (c : Instr) (rest : List Instr) (s : State), s.pending = c :: rest → step s = exec c { s with pending := rest }

/-- With no command waiting, a step is one microsecond (model's choice, log 5): outside RUN and in reset nothing
counts (R12, R68).  In RUN the hold timer of a held access counts down by one and refuses the access HOLD_EXPIRED
when it runs out (R68, R71); then each idle timer that runs, in ascending context number, counts one microsecond of
its millisecond, and a timer that runs out makes a rollback request with cause IDLE (R12, R13), which reports the
source's new binding (R70); then the arbiter decides. -/
def Obligations.EmptyQueueStepCountsTimers : Prop :=
  ∀ s : State, s.pending = [] →
    (s.mode ≠ .run ∨ s.inReset = true → step s = .next s) ∧
    (s.mode = .run → s.inReset = false →
      let idle (t : State) (c : CtxNum) : State :=
        match t.ctx c with
        | .active (.opened (some i)) e =>
          if i.us < 999 then t.setCtx c (.active (.opened (some ⟨i.ms, i.us + 1⟩)) e)
          else if 2 ≤ i.ms then t.setCtx c (.active (.opened (some ⟨i.ms - 1, 0⟩)) e)
          else (t.takeRollback c .idle).deliver ⟨some e.source, [], decide (t.claimsHeld c = 0)⟩
        | _ => t
      let counted (t : State) : State := (([0, 1, 2, 3, 4, 5, 6, 7] : List CtxNum).foldl idle t).arbitrate
      ((∀ a r n, s.access ≠ some ⟨a, .held r, some n⟩) → step s = .next (counted s)) ∧
      (∀ a r n, s.access = some ⟨a, .held r, some (n + 2)⟩ →
        step s = .next (counted { s with access := some ⟨a, .held r, some (n + 1)⟩ })) ∧
      (∀ a r n, n ≤ 1 → s.access = some ⟨a, .held r, some n⟩ →
        step s = .next (counted (s.refuse a (.holdExpired r))) ∧
        ∃ t, step s = .next t ∧ t.access = none ∧ t.herr = true ∧ t.lastEnding = some (.refused (.holdExpired r)) ∧
          t.mem = s.mem))

/-- The command of a frame is read back from the bytes that encode it (R155, R168; a frame is one
command, log 20). -/
def Obligations.DecodeEncodeAgree : Prop :=
  ∀ (i : Instr) (bytes : List Byte), WellFormed i = true → encodeFrame i = some bytes → decodeFrame bytes = i

/-- A few frames, written out from the command summary (R168), decode to the commands they spell (log 20). -/
def Obligations.FramesSpellCommands : Prop :=
  decodeFrame [0x01#8] = .getId ∧
  decodeFrame [0x10#8, 0x3F#8, 0x00#8, 0x40#8, 0x01#8, 0x00#8, 0x07#8] = .setGeometry 0x3F0040#24 256#16 7#8 ∧
  decodeFrame [0x18#8, 0x00#8, 0x10#8, 0x02#8, 0x00#8, 0x01#8, 0x0F#8, 0xFF#8, 0x12#8, 0x34#8, 0x05#8, 0x32#8] =
    .setLimits 16#16 512#16 1#8 4095#16 0x1234#16 5#8 50#8 ∧
  decodeFrame [0x20#8, 0x02#8, 0x01#8, 0x03#8, 0x01#8, 0x80#8, 0x00#8, 0x01#8, 0x8F#8, 0xFF#8] =
    .setRegion 2#8 1#8 3#8 0x018000#24 0x018FFF#24 ∧
  decodeFrame [0x28#8, 0x01#8, 0x01#8, 0x00#8, 0x50#8, 0x04#8, 0x12#8, 0x34#8, 0xA5#8, 0xA6#8, 0x00#8, 0x00#8, 0xFF#8,
    0xFE#8, 0x01#8, 0x02#8, 0x08#8] = .setGuard 1#8 1#8 0x005004#24 0x1234A5A6#32 0x0000FFFE#32 1#8 2#8 8#8 ∧
  decodeFrame [0x30#8, 0x02#8, 0x77#8] = .openEpoch 2#8 ∧
  decodeFrame [0x48#8, 0x03#8, 0xFE#8] = .setEventMask 0x03FE#16 ∧
  decodeFrame [0x40#8, 0x00#8, 0x03#8] = .shortFrame ∧
  decodeFrame [] = .shortFrame ∧
  decodeFrame [0x06#8, 0x01#8] = .badOpcode 0x06#8

/-! ### Reading commands and responses -/

/-- GET_ID and GET_STATUS (R160): the identity codes, and the 23 bytes in their order, in every mode. -/
def Obligations.IdentityAndStatusAreRead : Prop :=
  ∀ s : State, s.inReset = false →
    exec .getId s = .next (s.replied [0x00#8, 0x3C#8, 0x51#8, 0x07#8, 0x08#8, 0x02#8]) ∧
    ∃ notFree fenced : Byte,
      (∀ c : CtxNum, notFree.getLsbD c.val = !(s.ctx c).isFree) ∧
      (∀ i : SrcNum, fenced.getLsbD i.val = (s.source i).fenced) ∧ fenced.toNat < 16 ∧
      exec .getStatus s = .next (s.replied (0x00#8 ::
        ((match s.mode with
          | .gated => 0#8 | .formatting => 1#8 | .recovering => 2#8 | .run => 3#8 | .frozen => 4#8) ::
        (be16 s.epochSeq ++ be16 (BitVec.ofNat 16 s.claims.length) ++ be16 (BitVec.ofNat 16 s.pool.length) ++
        be24 (s.jbase.setWidth 24) ++ be16 (BitVec.ofNat 16 s.nseg) ++
        [s.gen, BitVec.ofNat 8 s.events.length, s.lostEvents, s.shortFrames, BitVec.ofNat 8 s.queue.length, notFree,
          fenced, s.eventSeq] ++
        be16 s.eventMask ++ [BitVec.ofNat 8 (16 * s.stat1.val + s.stat0.val)]))))

/-- POP_EVENT and ACK_LOST (R163, R164), with the 12 bytes of a record (R167); IRQ# follows the queue; and SET_EVENT_MASK
(R164): bits 1 to 9 only, and nothing in FROZEN. -/
def Obligations.EventsAreReadAndMasked : Prop :=
  (∀ s : State, s.inReset = false →
    (s.events = [] → exec .popEvent s = .next (s.replied [0x89#8]) ∧ s.irq = false) ∧
    (∀ (e : Event) (rest : List Event), s.events = e :: rest → s.irq = true ∧
      exec .popEvent s = .next ({ s with events := rest }.replied (0x00#8 ::
        ([(match e.kind with
            | .committed => 1#8 | .rolledBack => 2#8 | .faulted => 3#8 | .discarded => 4#8 | .guard => 5#8
            | .threshold => 6#8 | .lowWater => 7#8 | .recoveryDone => 8#8 | .formatDone => 9#8), e.seq,
          (match e.ctx with | some c => BitVec.ofNat 8 c.val | none => 0xFF#8),
          (match e.src with | some i => BitVec.ofNat 8 i.val | none => 0xFF#8),
          e.code.getD 0xFF#8,
          (match e.mode with
            | .gated => 0#8 | .formatting => 1#8 | .recovering => 2#8 | .run => 3#8 | .frozen => 4#8)] ++
        be16 e.count ++ (match e.addr with | some a => be32 (a.setWidth 32) | none => be32 0xFFFFFFFF#32))))) ∧
    exec .ackLost s = .next ({ s with lostEvents := 0#8 }.replied [0x00#8, s.lostEvents])) ∧
  (∀ (s : State) (m : BitVec 16), s.inReset = false →
    (s.mode = .frozen → exec (.setEventMask m) s = .next (s.replied [0x82#8])) ∧
    (s.mode ≠ .frozen →
      ((m.getLsbD 0 = true ∨ ∃ k, 10 ≤ k ∧ m.getLsbD k = true) →
        exec (.setEventMask m) s = .next (s.replied [0x81#8])) ∧
      ((m.getLsbD 0 = false ∧ ∀ k, 10 ≤ k → m.getLsbD k = false) →
        exec (.setEventMask m) s = .next ({ s with eventMask := m }.replied [0x00#8]))))

/-- REPEAT_RESPONSE (R158): the last response is sent again byte for byte, followed by 0x00, and is kept; it reads
the record that a POP_EVENT has removed. -/
def Obligations.LastResponseIsRepeated : Prop :=
  ∀ s : State, s.inReset = false →
    exec .repeatResponse s = .next { s with sdo := s.lastResponse } ∧
    (∀ k, ({ s with sdo := s.lastResponse } : State).outByte k = if h : k < s.lastResponse.length then s.lastResponse[k] else 0x00#8) ∧
    (∀ e rest, s.events = e :: rest → ∃ t u, exec .popEvent s = .next t ∧ t.events = rest ∧
      exec .repeatResponse t = .next u ∧ u.events = rest ∧ u.sdo = 0x00#8 :: e.bytes)

/-- BAD_OPCODE and short frames (R157): a short frame changes only the short-frame count, which stays at 255, and has
no response on SDO; an unknown opcode is answered BAD_OPCODE; no command but a reset lowers the count.  While the
bytes of a frame are shifted in, SDO sends 0x00, and after them the response (R155, R156). -/
def Obligations.ShortAndUnknownFrames : Prop :=
  (∀ s : State, s.inReset = false →
    exec .shortFrame s =
      .next { s with shortFrames := if s.shortFrames = 255#8 then 255#8 else s.shortFrames + 1#8, sdo := [] } ∧
    (∀ op, exec (.badOpcode op) s = .next (s.replied [0x80#8]))) ∧
  (∀ (c : Instr) (s t : State), c ≠ .reset → exec c s = .next t → s.shortFrames.toNat ≤ t.shortFrames.toNat) ∧
  (∀ (c : Instr) (bytes : List Byte) (s t : State), encodeFrame c = some bytes → exec c s = .next t →
    (∀ k < bytes.length, t.frameByte c k = 0x00#8) ∧
    (∀ k, t.frameByte c (bytes.length + k) = if h : k < t.sdo.length then t.sdo[k] else 0x00#8)) ∧
  (∀ s t : State, s.inReset = false → exec .shortFrame s = .next t → ∀ k, t.frameByte .shortFrame k = 0x00#8)

/-- SET_LIMITS, checked in the order of R161, and GET_LIMITS. -/
def Obligations.LimitsAreSetAndRead : Prop :=
  ∀ (s : State) (q c h i : BitVec 16) (j l t : Byte), s.inReset = false →
    exec .getLimits s = .next (s.replied (0x00#8 :: (be16 (BitVec.ofNat 16 s.limits.qseg) ++
      be16 (BitVec.ofNat 16 s.limits.qclm) ++
      [(match s.limits.jfull with | .hold => 0#8 | .refuse => 1#8 | .abort => 2#8)] ++
      be16 (BitVec.ofNat 16 s.limits.holdlim) ++ be16 (BitVec.ofNat 16 s.limits.idlelim) ++
      [BitVec.ofNat 8 s.limits.lowwater, BitVec.ofNat 8 s.limits.tbdiv]))) ∧
    (s.mode ≠ .gated → s.mode ≠ .run → exec (.setLimits q c j h i l t) s = .next (s.replied [0x82#8])) ∧
    (s.mode = .gated ∨ s.mode = .run →
      (¬ (1 ≤ q.toNat ∧ q.toNat ≤ 256 ∧ 1 ≤ c.toNat ∧ c.toNat ≤ 512 ∧ j.toNat ≤ 2 ∧ 1 ≤ h.toNat ∧ h.toNat ≤ 4095 ∧
          1 ≤ t.toNat) →
        exec (.setLimits q c j h i l t) s = .next (s.replied [0x81#8])) ∧
      (1 ≤ q.toNat → q.toNat ≤ 256 → 1 ≤ c.toNat → c.toNat ≤ 512 → j.toNat ≤ 2 → 1 ≤ h.toNat → h.toNat ≤ 4095 →
        1 ≤ t.toNat →
        ((∃ x, s.ctx x ≠ .free) ∨ s.queue ≠ [] →
          exec (.setLimits q c j h i l t) s = .next (s.replied [0x83#8])) ∧
        ((∀ x, s.ctx x = .free) → s.queue = [] →
          exec (.setLimits q c j h i l t) s = .next ({ s with limits := ⟨q.toNat, c.toNat,
            if j.toNat = 0 then .hold else if j.toNat = 1 then .refuse else .abort, h.toNat, i.toNat, l.toNat,
            t.toNat⟩ }.replied [0x00#8]))))

/-- SET_STAT_SELECT and the STAT lines (R165). -/
def Obligations.StatLinesFollowSelections : Prop :=
  (∀ (s : State) (a b : Byte), s.inReset = false →
    (s.mode = .frozen → exec (.setStatSelect a b) s = .next (s.replied [0x82#8])) ∧
    (s.mode ≠ .frozen → (7 < a.toNat ∨ 7 < b.toNat) → exec (.setStatSelect a b) s = .next (s.replied [0x81#8])) ∧
    (s.mode ≠ .frozen → ∀ (ha : a.toNat < 8) (hb : b.toNat < 8),
      exec (.setStatSelect a b) s =
        .next ({ s with stat0 := ⟨a.toNat, ha⟩, stat1 := ⟨b.toNat, hb⟩ }.replied [0x00#8]))) ∧
  (∀ s : State, s.stat0Level = s.statCondition s.stat0 ∧ s.stat1Level = s.statCondition s.stat1 ∧
    (s.statCondition 0 = true ↔ s.mode = .run) ∧ (s.statCondition 1 = true ↔ ∃ c, s.ctx c ≠ .free) ∧
    (s.statCondition 2 = true ↔ s.pool.length < s.limits.lowwater) ∧
    (s.statCondition 3 = true ↔ ∃ i, (s.source i).fenced = true) ∧ (s.statCondition 4 = true ↔ s.events ≠ []) ∧
    (s.statCondition 5 = true ↔ s.queue ≠ []) ∧ (s.statCondition 6 = true ↔ s.mode = .frozen) ∧
    s.statCondition 7 = false ∧ (s.limits.lowwater = 0 → s.statCondition 2 = false)) ∧
  (∀ s t : State, exec .reset s = .next t → t.stat0 = 0 ∧ t.stat1 = 5 ∧ t.stat0Level = false ∧ t.stat1Level = false) ∧
  (∀ s t : State, (exec .gate s = .next t ∨ exec .pfailAsserted s = .next t) → t.stat0 = s.stat0 ∧ t.stat1 = s.stat1) ∧
  (∀ s t : State, s.inReset = false → exec .pfailAsserted s = .next t →
    (s.stat0 = 6 → t.stat0Level = true) ∧ (s.stat1 = 6 → t.stat1Level = true))

/-- Taking an event into the queue (R162): a disabled kind is not raised; with room the record joins the tail with
the counter's value and the mode that stands; a full queue drops it, counts it as lost up to 255, and still takes a
sequence number. -/
def Obligations.EventQueueTakesEvents : Prop :=
  ∀ (s : State) (k : EventKind) (c : Option CtxNum) (i : Option SrcNum) (code : Option Byte) (n : BitVec 16)
    (a : Option Addr),
    (s.eventMask.getLsbD k.code = false → s.raise k c i code n a = s) ∧
    (s.eventMask.getLsbD k.code = true → s.events.length < 32 →
      s.raise k c i code n a =
        { s with events := s.events ++ [⟨k, s.eventSeq, c, i, code, s.mode, n, a⟩], eventSeq := s.eventSeq + 1#8 }) ∧
    (s.eventMask.getLsbD k.code = true → 32 ≤ s.events.length →
      s.raise k c i code n a =
        { s with eventSeq := s.eventSeq + 1#8,
                 lostEvents := if s.lostEvents = 255#8 then 255#8 else s.lostEvents + 1#8 })

/-! ### Geometry and modes -/

/-- SET_GEOMETRY (R21, R143): taken in GATED alone, its argument checks, and the pool emptied with no event. -/
def Obligations.GeometryIsSet : Prop :=
  ∀ (s : State) (j : WideAddr) (n : BitVec 16) (g : Byte), s.inReset = false →
    (s.mode ≠ .gated → exec (.setGeometry j n g) s = .next (s.replied [0x82#8])) ∧
    (s.mode = .gated →
      (j.toNat % 64 ≠ 0 ∨ n.toNat < 16 ∨ 256 < n.toNat ∨ 4194304 < j.toNat + n.toNat * 64 →
        exec (.setGeometry j n g) s = .next (s.replied [0x81#8])) ∧
      (j.toNat % 64 = 0 → 16 ≤ n.toNat → n.toNat ≤ 256 → j.toNat + n.toNat * 64 ≤ 4194304 →
        exec (.setGeometry j n g) s =
          .next ({ s with jbase := BitVec.ofNat 22 j.toNat, nseg := n.toNat, gen := g, pool := [] }.replied [0x00#8])))

/-- FORMAT and RECOVER (R143, R145): WRONG_MODE outside GATED, WRONG_STATE while NSEG is unset; taken, the pool is
emptied, the mode changes and the work begins.  GATE (R154): from RUN alone, and only with every context FREE and the
engine queue empty; nothing but the mode changes. -/
def Obligations.ModeCommandsAreTaken : Prop :=
  (∀ s : State, s.inReset = false →
    (s.mode ≠ .gated → exec .format s = .next (s.replied [0x82#8]) ∧ exec .recover s = .next (s.replied [0x82#8])) ∧
    (s.mode = .gated → s.nseg = 0 →
      exec .format s = .next (s.replied [0x84#8]) ∧ exec .recover s = .next (s.replied [0x84#8])) ∧
    (s.mode = .gated → s.nseg ≠ 0 →
      exec .format s =
        .next (({ s with pool := [], mode := .formatting, work := .format 0 }.replied [0x01#8]).arbitrate) ∧
      exec .recover s =
        .next (({ s with pool := [], mode := .recovering, work := .survey 0 [] }.replied [0x01#8]).arbitrate))) ∧
  (∀ s : State, s.inReset = false →
    (s.mode ≠ .run → exec .gate s = .next (s.replied [0x82#8])) ∧
    (s.mode = .run → (∃ c, s.ctx c ≠ .free) ∨ s.queue ≠ [] → exec .gate s = .next (s.replied [0x83#8])) ∧
    (s.mode = .run → (∀ c, s.ctx c = .free) → s.queue = [] →
      exec .gate s = .next ({ s with mode := .gated }.replied [0x00#8])))

/-! ### Regions, classification and holds -/

/-- SET_REGION and GET_REGION (R63): the checks in their order, the entry replaced in whole or the table left as it
was, and the entry read back in any mode.  The region of an address (R62): the lowest-numbered enabled entry that
contains it decides, an address in no enabled entry has mode PASS, and within the journal window the mode has no
effect. -/
def Obligations.RegionsAreSetReadAndUsed : Prop :=
  (∀ (s : State) (x en mo : Byte) (b l : WideAddr), s.inReset = false →
    (s.mode = .frozen → exec (.setRegion x en mo b l) s = .next (s.replied [0x82#8])) ∧
    (s.mode ≠ .frozen →
      (15 < x.toNat ∨ 1 < en.toNat ∨ 3 < mo.toNat ∨ 0x3FFFFF < b.toNat ∨ 0x3FFFFF < l.toNat ∨ l.toNat < b.toNat →
        exec (.setRegion x en mo b l) s = .next (s.replied [0x81#8])) ∧
      (∀ hx : x.toNat < 16, en.toNat ≤ 1 → mo.toNat ≤ 3 → b.toNat ≤ l.toNat → l.toNat ≤ 0x3FFFFF →
        ((∃ c, s.ctx c ≠ .free) ∨ s.queue ≠ [] → exec (.setRegion x en mo b l) s = .next (s.replied [0x83#8])) ∧
        ((∀ c, s.ctx c = .free) → s.queue = [] →
          exec (.setRegion x en mo b l) s =
            .next ({ s with regions := s.regions.set x.toNat ⟨en.toNat == 1,
              (match mo.toNat with | 0 => .pass | 1 => .journal | 2 => .journalRequired | _ => .readonly),
              BitVec.ofNat 22 b.toNat, BitVec.ofNat 22 l.toNat⟩ }.replied [0x00#8])))) ∧
    (15 < x.toNat → exec (.getRegion x) s = .next (s.replied [0x81#8])) ∧
    (∀ hx : x.toNat < 16, exec (.getRegion x) s = .next (s.replied (0x00#8 ::
      ([if (s.region ⟨x.toNat, hx⟩).enable then 1#8 else 0#8,
        (match (s.region ⟨x.toNat, hx⟩).mode with
          | .pass => 0#8 | .journal => 1#8 | .journalRequired => 2#8 | .readonly => 3#8)] ++
      be24 ((s.region ⟨x.toNat, hx⟩).base.setWidth 24) ++ be24 ((s.region ⟨x.toNat, hx⟩).limit.setWidth 24)))))) ∧
  (∀ (s : State) (a : Addr),
    (∀ i : Fin 16, (s.region i).enable = true → (s.region i).base.toNat ≤ a.toNat → a.toNat ≤ (s.region i).limit.toNat →
      (∀ j : Fin 16, j < i → ¬ ((s.region j).enable = true ∧ (s.region j).base.toNat ≤ a.toNat ∧
        a.toNat ≤ (s.region j).limit.toNat)) →
      s.regionMode a = (s.region i).mode) ∧
    ((∀ i : Fin 16, ¬ ((s.region i).enable = true ∧ (s.region i).base.toNat ≤ a.toNat ∧
        a.toNat ≤ (s.region i).limit.toNat)) → s.regionMode a = .pass) ∧
    (∀ h : Access, h.addr = a → s.mode = .run → s.inWindow a = true → (h.write = false ∨ h.be ≠ 0#4) →
      s.classify h = .refused .journalWindow))

/-- The classification of a read in RUN, step by step (R64). -/
def Obligations.ReadsAreClassified : Prop :=
  ∀ (s : State) (a : Access), s.mode = .run → a.write = false →
    s.classify a =
      if s.inWindow a.addr then .refused .journalWindow
      else
        match s.owner a.addr with
        | none => .send .forwarded
        | some c =>
          match s.ctx c with
          | .active (.faulted _ _) _ => .refused .lockedWord
          | .active (.rollingBack _) _ => .hold
          | .active .discarding _ => .hold
          | .active (.opened _) _ => .send .forwarded
          | .active .committing _ => .send .forwarded
          | .free => .send .forwarded

/-- The classification of a write in RUN, steps 1 to 11 in their order (R65).  The word's owner is a context other
than FREE, as in every reachable state (R2). -/
def Obligations.WritesAreClassified : Prop :=
  ∀ (s : State) (a : Access), s.mode = .run → a.write = true → (∀ c, s.owner a.addr = some c → s.ctx c ≠ .free) →
    (a.be = 0#4 → s.classify a = .done) ∧
    (a.be ≠ 0#4 → s.inWindow a.addr = true → s.classify a = .refused .journalWindow) ∧
    (a.be ≠ 0#4 → s.inWindow a.addr = false →
      ((s.source a.src).fenced = true → s.classify a = .refused .fenced) ∧
      ((s.source a.src).fenced = false →
        (s.regionMode a.addr = .readonly → s.classify a = .refused .readonly) ∧
        (s.regionMode a.addr ≠ .readonly →
          (∀ c p e, s.owner a.addr = some c → s.ctx c = .active p e →
            s.classify a =
              match p with
              | .faulted _ _ => .refused .lockedWord
              | .committing => .hold
              | .rollingBack _ => .hold
              | .discarding => .hold
              | .opened _ => if (s.source a.src).bound = some c then .send .forwarded else .refused .conflict) ∧
          (s.owner a.addr = none →
            (s.regionMode a.addr = .pass → s.classify a = .send .forwarded) ∧
            (s.regionMode a.addr = .journal → (s.source a.src).bound = none → s.classify a = .send .forwarded) ∧
            (s.regionMode a.addr = .journalRequired → (s.source a.src).bound = none →
              s.classify a = .refused .noEpoch) ∧
            (∀ c p e, s.regionMode a.addr ≠ .pass → (s.source a.src).bound = some c → s.ctx c = .active p e →
              s.classify a = .send (.journalled c e.seq))))))

/-- HOST_ACCESS_START (R58, R59, R66, R68): with no access in the part the strobe deasserts HERR, and the
classification's outcome applies: DONE, refused with HERR asserted (and 0 on HD for a read), held with HOLDLIM
loaded, or sent to the memory side; memory is untouched in every case.  The mode check (R60) comes first: outside RUN
the access is refused GATED or FROZEN, and nothing else is touched but the bus and the arbiter's turn.  A strobe while
an access is in the part, under either of its rows, has no effect (R58, log 21).  `lastEnding` is the model's own
record of the ending (log 9). -/
def Obligations.AccessStartsAsClassified : Prop :=
  (∀ (s : State) (addr : Addr) (be : BitVec 4) (i : SrcNum) (w : Bool) (d : Word),
    s.inReset = false → s.access = none →
    (s.classify ⟨addr, be, i, w, d⟩ = .done →
      exec (.hostAccessStart addr be i w d) s =
        .next ({ s with herr := false, lastEnding := some .done }.arbitrate)) ∧
    (∀ k, s.classify ⟨addr, be, i, w, d⟩ = .refused k →
      ∃ t, exec (.hostAccessStart addr be i w d) s = .next t ∧ t.access = none ∧ t.herr = true ∧
        t.hd = (if w then s.hd else 0#32) ∧ t.lastEnding = some (.refused k) ∧ t.mem = s.mem ∧ t.claims = s.claims ∧
        t.guards = s.guards) ∧
    (s.classify ⟨addr, be, i, w, d⟩ = .hold → 1 ≤ s.limits.holdlim →
      exec (.hostAccessStart addr be i w d) s =
        .next ({ s with herr := false,
                        access := some ⟨⟨addr, be, i, w, d⟩, .held .conflict, some s.limits.holdlim⟩ }.arbitrate)) ∧
    (∀ r, s.classify ⟨addr, be, i, w, d⟩ = .send r →
      exec (.hostAccessStart addr be i w d) s =
        .next ({ s with herr := false, access := some ⟨⟨addr, be, i, w, d⟩, .toMemory r, none⟩ }.arbitrate))) ∧
  (∀ (s : State) (a : Addr) (be : BitVec 4) (i : SrcNum) (w : Bool) (d : Word), s.mode ≠ .run →
    let k : RefusalKind := if s.mode = .frozen then .frozen else .gated
    s.classify ⟨a, be, i, w, d⟩ = .refused k ∧
    (s.inReset = false → s.access = none →
      exec (.hostAccessStart a be i w d) s =
        .next ({ s with herr := true, hd := if w then s.hd else 0#32,
                        lastEnding := some (.refused k) }.arbitrate))) ∧
  (∀ (s : State) (h : HostAccess) (a : Addr) (be : BitVec 4) (i : SrcNum) (w : Bool) (d : Word), s.access = some h →
    exec (.strobeIgnored a be i w d) s = .next s ∧ exec (.hostAccessStart a be i w d) s = .next s)

/-- What ends a hold (R52, R69, R70): a CONFLICT hold at the release of its word, a CLAIM_FULL hold at any release, a
JOURNAL_FULL hold at a segment return, and a held write when its source's binding changes.  The access is then
classified again, keeping what is left of its hold limit; a report that is not its own leaves it held.  Held again with nothing left, it is refused (R71). -/
def Obligations.ReportsEndHolds : Prop :=
  ∀ (s : State) (a : Access) (r : HoldReason) (l : Option Nat) (p : Report),
    s.access = some ⟨a, .held r, l⟩ →
    ((r = .conflict ∧ a.addr ∈ p.released) ∨ (r = .claimFull ∧ p.released ≠ []) ∨ (r = .journalFull ∧ p.returned = true) ∨
        (a.write = true ∧ p.rebound = some a.src) →
      (∀ q, s.classify a = .send q → s.deliver p = { s with access := some ⟨a, .toMemory q, l⟩ }) ∧
      (∀ n, s.classify a = .hold → l = some (n + 1) →
        s.deliver p = { s with access := some ⟨a, .held .conflict, some (n + 1)⟩ }) ∧
      (s.classify a = .done → s.deliver p = { s with access := none, herr := false, lastEnding := some .done }) ∧
      (∀ k, s.classify a = .refused k ∨ (s.classify a = .hold ∧ l = some 0 ∧ k = .holdExpired .conflict) →
        (s.deliver p).access = none ∧ (s.deliver p).herr = true ∧ (s.deliver p).lastEnding = some (.refused k) ∧
          (s.deliver p).mem = s.mem)) ∧
    (¬ ((r = .conflict ∧ a.addr ∈ p.released) ∨ (r = .claimFull ∧ p.released ≠ []) ∨
        (r = .journalFull ∧ p.returned = true) ∨ (a.write = true ∧ p.rebound = some a.src)) →
      s.deliver p = s)

/-- HOLD_EXPIRED (R71): the held access is refused, and the refusal is counted in the group of the hold's reason; the
row is due while an access is held in RUN (log 6), and does nothing otherwise (log 3). -/
def Obligations.HoldExpiryRefuses : Prop :=
  ∀ s : State,
    (∀ a r l, s.mode = .run → s.access = some ⟨a, .held r, l⟩ →
      ∃ t, exec .holdExpired s = .next t ∧ t.access = none ∧ t.herr = true ∧ t.hd = (if a.write then s.hd else 0#32) ∧
        t.lastEnding = some (.refused (.holdExpired r)) ∧ t.mem = s.mem ∧ t.claims = s.claims ∧
        (t.counter a.src (if r = .conflict then .conflict else .capacity)).value =
          (let g : Group := if r = .conflict then .conflict else .capacity
           if (s.counter a.src g).value ≠ 255#8 then (s.counter a.src g).value + 1#8
           else if (s.settings g).holdMode = .saturate then 255#8 else 0#8)) ∧
    ((s.mode ≠ .run ∨ ∀ a r l, s.access ≠ some ⟨a, .held r, l⟩) → exec .holdExpired s = .next s)

/-! ### Refusal Accounting and fences -/

/-- One counted refusal touches one counter (R127, R128): the counter of the source and of the kind's group (R73)
takes the value its hold mode gives, and every other counter stands; GATED and FROZEN refusals change nothing. -/
def Obligations.RefusalsAreCounted : Prop :=
  ∀ (s : State) (i : SrcNum) (k : RefusalKind),
    ((k = .gated ∨ k = .frozen) → s.report i k = s) ∧
    (k ≠ .gated → k ≠ .frozen →
      ∃ g : Group,
        (g = .conflict ↔ k = .conflict ∨ k = .lockedWord ∨ k = .holdExpired .conflict) ∧
        (g = .policy ↔ k = .journalWindow ∨ k = .readonly ∨ k = .noEpoch ∨ k = .fenced) ∧
        ((s.report i k).counter i g).value =
          (if (s.counter i g).value ≠ 255#8 then (s.counter i g).value + 1#8
           else if (s.settings g).holdMode = .saturate then 255#8 else 0#8) ∧
        ∀ j h, (j, h) ≠ (i, g) → (s.report i k).counter j h = s.counter j h)

/-- What a counted refusal does, for every action mask (R128, R130 to R133): nothing but the counter when its increment
does not reach the threshold; when it does, the flag, then FENCE, then ABORT, then IRQ.  ABORT requests a rollback
with cause THRESHOLD of the context that the lookup of the source's binding gave, and the THRESHOLD event names that
context; for an empty epoch ROLLED_BACK comes before THRESHOLD (R132).  `countBound` is given the binding looked up;
`count` looks it up at that moment. -/
def Obligations.ThresholdActs : Prop :=
  (∀ (s : State) (i : SrcNum) (g : Group), s.count i g = s.countBound i g (s.source i).bound) ∧
  (∀ (s : State) (i : SrcNum) (g : Group) (b : Option CtxNum),
    let v := (s.counter i g).value
    let v' := if v ≠ 255#8 then v + 1#8 else if (s.settings g).holdMode = .saturate then 255#8 else 0#8
    let judged := v ≠ 255#8 ∨ (s.settings g).holdMode = .roll
    let irq := (s.settings g).actions.getLsbD 0
    let fence := (s.settings g).actions.getLsbD 1
    let abort := (s.settings g).actions.getLsbD 2
    let number := match g with | .conflict => 0 | .capacity => 1 | .policy => 2
    (¬ (judged ∧ v' = (s.settings g).threshold) →
      s.countBound i g b = s.setCounter i g ⟨v', (s.counter i g).reached⟩) ∧
    (judged ∧ v' = (s.settings g).threshold →
      let flagged := s.setCounter i g ⟨v', true⟩
      let stopped := if fence then flagged.setSource i ⟨(s.source i).bound, true⟩ else flagged
      let request := if abort then b else none
      let undone := match request with | some c => stopped.takeRollback c .threshold | none => stopped
      let code := number + (if fence then 4 else 0) + (if request.isSome then 8 else 0)
      s.countBound i g b =
        (if irq then undone.raise .threshold request (some i) (some (BitVec.ofNat 8 code)) (v'.setWidth 16) none
         else undone) ∧
      (∀ c t e, abort = true → b = some c → s.ctx c = .active (.opened t) e →
        (s.claimsHeld c ≠ 0 →
          (s.countBound i g b).ctx c = .active (.rollingBack .threshold) e ∧
          (s.countBound i g b).queue = s.queue ++ [⟨c, none⟩]) ∧
        (s.claimsHeld c = 0 → irq = true → s.eventMask.getLsbD 2 = true → s.eventMask.getLsbD 6 = true →
          s.events.length < 31 →
          (s.countBound i g b).ctx c = .free ∧
          (s.countBound i g b).events = s.events ++
            [⟨.rolledBack, s.eventSeq, some c, some e.source, some 5#8, s.mode, 0#16, none⟩,
             ⟨.threshold, s.eventSeq + 1#8, some c, some i, some (BitVec.ofNat 8 code), s.mode, v'.setWidth 16,
               none⟩]))))

/-- SET_ACCOUNTING, CLEAR_COUNTERS and UNFENCE (R129, R135, R136): the checks in their order and the effect of each; and
GET_COUNTERS (R137): the 16 bytes, in every mode. -/
def Obligations.AccountingCommandsAreTaken : Prop :=
  (∀ (s : State) (g th hm am i m : Byte), s.inReset = false →
    (s.mode = .frozen → exec (.setAccounting g th hm am) s = .next (s.replied [0x82#8]) ∧
      exec (.clearCounters i m) s = .next (s.replied [0x82#8]) ∧ exec (.unfence i) s = .next (s.replied [0x82#8])) ∧
    (s.mode ≠ .frozen →
      (2 < g.toNat ∨ th = 0#8 ∨ 1 < hm.toNat ∨ 7 < am.toNat →
        exec (.setAccounting g th hm am) s = .next (s.replied [0x81#8])) ∧
      (∀ hg : g.toNat < 3, th ≠ 0#8 → hm.toNat ≤ 1 → am.toNat ≤ 7 →
        let x : GroupSettings := ⟨th, if hm.toNat = 0 then .saturate else .roll, BitVec.ofNat 3 am.toNat⟩
        exec (.setAccounting g th hm am) s = .next ({ s with groups := s.groups.set g.toNat x }.replied [0x00#8])) ∧
      (3 < i.toNat ∨ 7 < m.toNat → exec (.clearCounters i m) s = .next (s.replied [0x81#8])) ∧
      (∀ hi : i.toNat < 4, m.toNat ≤ 7 → ∃ t : State, exec (.clearCounters i m) s = .next (t.replied [0x00#8]) ∧
        t = { s with counters := t.counters } ∧
        ∀ (j : SrcNum) (h : Group), t.counter j h =
          if j = ⟨i.toNat, hi⟩ ∧ m.getLsbD h.index.val = true then ⟨0#8, false⟩ else s.counter j h) ∧
      (3 < i.toNat → exec (.unfence i) s = .next (s.replied [0x81#8])) ∧
      (∀ hi : i.toNat < 4,
        let x : Source := ⟨(s.source ⟨i.toNat, hi⟩).bound, false⟩
        exec (.unfence i) s = .next ({ s with sources := s.sources.set i.toNat x }.replied [0x00#8])))) ∧
  (∀ (s : State) (i : Byte), s.inReset = false →
    (3 < i.toNat → exec (.getCounters i) s = .next (s.replied [0x81#8])) ∧
    (∀ hi : i.toNat < 4,
      let k (g : Group) : List Byte :=
        [(s.counter ⟨i.toNat, hi⟩ g).value, if (s.counter ⟨i.toNat, hi⟩ g).reached then 1#8 else 0#8]
      let z (g : Group) : List Byte :=
        [(s.settings g).threshold, if (s.settings g).holdMode = .roll then 1#8 else 0#8,
          BitVec.ofNat 8 (s.settings g).actions.toNat]
      exec (.getCounters i) s = .next (s.replied (0x00#8 :: (k .conflict ++ k .capacity ++ k .policy ++
        [if (s.source ⟨i.toNat, hi⟩).fenced then 1#8 else 0#8] ++ z .conflict ++ z .capacity ++ z .policy)))))

/-! ### Epochs -/

/-- OPEN (R6): the conditions in their order; a refused OPEN changes nothing but the response.  OPEN taken (R7): the
lowest-numbered FREE context, one segment from the pool head, the sequence number, the binding, the idle timer,
LOW_WATER when the taking crosses the setting (R42), and the response; a held write of the source is then classified
again (R70). -/
def Obligations.OpenIsCheckedAndTaken : Prop :=
  (∀ (s : State) (b : Byte), s.inReset = false →
    (s.mode ≠ .run → exec (.openEpoch b) s = .next (s.replied [0x82#8])) ∧
    (s.mode = .run → 3 < b.toNat → exec (.openEpoch b) s = .next (s.replied [0x81#8])) ∧
    (∀ i : SrcNum, s.mode = .run → b.toNat = i.val →
      ((s.source i).fenced = true → exec (.openEpoch b) s = .next (s.replied [0x8A#8])) ∧
      ((s.source i).fenced = false → (s.source i).bound ≠ none →
        exec (.openEpoch b) s = .next (s.replied [0x85#8])) ∧
      ((s.source i).fenced = false → (s.source i).bound = none →
        ((∀ c, s.ctx c ≠ .free) → exec (.openEpoch b) s = .next (s.replied [0x86#8])) ∧
        ((∃ c, s.ctx c = .free) → s.pool = [] → exec (.openEpoch b) s = .next (s.replied [0x87#8]))))) ∧
  (∀ (s : State) (i : SrcNum) (c : CtxNum) (n : Nat) (rest : List Nat),
    s.inReset = false → s.mode = .run → (s.source i).fenced = false → (s.source i).bound = none →
    s.ctx c = .free → (∀ d < c, s.ctx d ≠ .free) → s.pool = n :: rest →
    ∃ idle : Option Idle,
      idle.map (·.ms) = (if s.limits.idlelim = 0 then none else some s.limits.idlelim) ∧
      let opened := (State.setCtx { s with pool := rest, epochSeq := s.epochSeq + 1#16 } c
        (.active (.opened idle) ⟨i, s.epochSeq, [⟨n, 0⟩], 1, false, 0, 0, false⟩)).setSource i ⟨some c, false⟩
      let warned := if s.limits.lowwater ≤ rest.length + 1 ∧ rest.length < s.limits.lowwater then
          opened.raise .lowWater none none none (BitVec.ofNat 16 rest.length) none
        else opened
      exec (.openEpoch (BitVec.ofNat 8 i.val)) s =
        .next ((warned.replied (0x00#8 :: BitVec.ofNat 8 c.val :: be16 s.epochSeq)).deliver
          ⟨some i, [], false⟩).arbitrate)

/-- COMMIT (R96, R15, R17, R125): the checks in their order, and what an accepted commit does to an epoch that holds
a claim and to an empty one. -/
def Obligations.CommitIsCheckedAndTaken : Prop :=
  ∀ (s : State) (b : Byte), s.inReset = false →
    (s.mode ≠ .run → exec (.commit b) s = .next (s.replied [0x82#8])) ∧
    (s.mode = .run → 7 < b.toNat → exec (.commit b) s = .next (s.replied [0x81#8])) ∧
    (∀ c : CtxNum, s.mode = .run → b.toNat = c.val →
      ((∀ t e, s.ctx c ≠ .active (.opened t) e) → exec (.commit b) s = .next (s.replied [0x84#8])) ∧
      (∀ t e, s.ctx c = .active (.opened t) e →
        (s.HoldsBack c → exec (.commit b) s = .next (s.replied [0x88#8])) ∧
        (¬ s.HoldsBack c →
          let unbound : Source := ⟨none, (s.source e.source).fenced⟩
          (s.claimsHeld c ≠ 0 →
            let left : State := { (s.setCtx c (.active .committing e)).setSource e.source unbound with
              queue := s.queue ++ [⟨c, none⟩] }
            exec (.commit b) s =
              .next ((left.deliver ⟨some e.source, [], false⟩).replied [0x01#8]).arbitrate) ∧
          (s.claimsHeld c = 0 →
            let left := (State.setCtx { s with pool := s.pool ++ e.chain.map (·.seg) } c .free).setSource e.source unbound
            exec (.commit b) s =
              .next (((left.raise .committed (some c) (some e.source) none 0#16 none).deliver
                ⟨some e.source, [], true⟩).replied [0x01#8]).arbitrate))))

/-- ABORT (R100, R16, R17): the checks in their order, the rollback request with cause ABORT_CMD, and no guard that
stands in its way. -/
def Obligations.AbortIsCheckedAndTaken : Prop :=
  ∀ (s : State) (b : Byte), s.inReset = false →
    (s.mode ≠ .run → exec (.abort b) s = .next (s.replied [0x82#8])) ∧
    (s.mode = .run → 7 < b.toNat → exec (.abort b) s = .next (s.replied [0x81#8])) ∧
    (∀ c : CtxNum, s.mode = .run → b.toNat = c.val →
      ((∀ t e, s.ctx c ≠ .active (.opened t) e) → exec (.abort b) s = .next (s.replied [0x84#8])) ∧
      (∀ t e, s.ctx c = .active (.opened t) e →
        let unbound : Source := ⟨none, (s.source e.source).fenced⟩
        (s.claimsHeld c ≠ 0 →
          let left : State := { (s.setCtx c (.active (.rollingBack .abortCmd) e)).setSource e.source unbound with
            queue := s.queue ++ [⟨c, none⟩] }
          exec (.abort b) s =
            .next ((left.deliver ⟨some e.source, [], false⟩).replied [0x01#8]).arbitrate) ∧
        (s.claimsHeld c = 0 →
          let left := (State.setCtx { s with pool := s.pool ++ e.chain.map (·.seg) } c .free).setSource e.source unbound
          exec (.abort b) s =
            .next (((left.raise .rolledBack (some c) (some e.source) (some 1#8) 0#16 none).deliver
              ⟨some e.source, [], true⟩).replied [0x01#8]).arbitrate)))

/-- Rollback requests (R13, R16, R17): the effect on each state of the named context, for every cause; and
IDLE_EXPIRY, which makes such a request with cause IDLE (R13) when it is due (log 6), and does nothing otherwise (log
3). -/
def Obligations.RollbackRequestsAreTaken : Prop :=
  (∀ (s : State) (c : CtxNum) (k : Cause),
    ((∀ t e, s.ctx c ≠ .active (.opened t) e) → s.takeRollback c k = s) ∧
    (∀ t e, s.ctx c = .active (.opened t) e →
      let unbound : Source := ⟨none, (s.source e.source).fenced⟩
      (s.claimsHeld c ≠ 0 →
        s.takeRollback c k =
          { (s.setCtx c (.active (.rollingBack k) e)).setSource e.source unbound with
            queue := s.queue ++ [⟨c, none⟩] }) ∧
      (s.claimsHeld c = 0 →
        s.takeRollback c k =
          ((State.setCtx { s with pool := s.pool ++ e.chain.map (·.seg) } c .free).setSource e.source unbound).raise
            .rolledBack (some c) (some e.source)
            (some (match k with
              | .abortCmd => 1#8 | .idle => 2#8 | .guard => 3#8 | .capacity => 4#8 | .threshold => 5#8
              | .recovery => 6#8)) 0#16 none))) ∧
  (∀ (s : State) (c : CtxNum),
    (∀ t e, s.mode = .run → s.ctx c = .active (.opened (some t)) e →
      exec (.idleExpiry c) s =
        .next (((s.takeRollback c .idle).deliver
          ⟨some e.source, [], decide (s.claimsHeld c = 0)⟩).arbitrate)) ∧
    (s.mode ≠ .run ∨ (∀ t e, s.ctx c ≠ .active (.opened (some t)) e) → exec (.idleExpiry c) s = .next s))

/-- TOUCH (R14): the checks in their order; taken, the idle timer is reloaded when IDLELIM is not 0, and nothing else
changes. -/
def Obligations.TouchReloadsTimer : Prop :=
  ∀ (s : State) (b : Byte), s.inReset = false →
    (s.mode ≠ .run → exec (.touch b) s = .next (s.replied [0x82#8])) ∧
    (s.mode = .run → 7 < b.toNat → exec (.touch b) s = .next (s.replied [0x81#8])) ∧
    (∀ c : CtxNum, s.mode = .run → b.toNat = c.val →
      ((∀ t e, s.ctx c ≠ .active (.opened t) e) → exec (.touch b) s = .next (s.replied [0x84#8])) ∧
      (∀ t e, s.ctx c = .active (.opened t) e →
        (s.limits.idlelim = 0 → exec (.touch b) s = .next (s.replied [0x00#8])) ∧
        (s.limits.idlelim ≠ 0 → ∃ idle : Idle, idle.ms = s.limits.idlelim ∧
          exec (.touch b) s = .next ((s.setCtx c (.active (.opened (some idle)) e)).replied [0x00#8]))))

/-- RETRY (R107): the checks in their order; taken, the context is ROLLING_BACK again with its cause and counts, the
fault fields are gone, and the job resumes at the former fault position when its entry reaches the head. -/
def Obligations.RetryResumesRollback : Prop :=
  ∀ (s : State) (b : Byte), s.inReset = false →
    (s.mode ≠ .run → exec (.retry b) s = .next (s.replied [0x82#8])) ∧
    (s.mode = .run → 7 < b.toNat → exec (.retry b) s = .next (s.replied [0x81#8])) ∧
    (∀ c : CtxNum, s.mode = .run → b.toNat = c.val →
      ((∀ k f e, s.ctx c ≠ .active (.faulted k f) e) → exec (.retry b) s = .next (s.replied [0x84#8])) ∧
      (∀ k f e, s.ctx c = .active (.faulted k f) e →
        (f.kind = .chain → exec (.retry b) s = .next (s.replied [0x84#8])) ∧
        (f.kind ≠ .chain →
          exec (.retry b) s = .next ((State.replied { s.setCtx c (.active (.rollingBack k) e) with
            queue := s.queue ++ [⟨c, f.pos⟩] } [0x01#8]).arbitrate)))) ∧
    (∀ (c : CtxNum) (k : Cause) (e : Epoch) (p : SlotPos) (rest : List QueueEntry), s.job = none →
      s.queue = ⟨c, some p⟩ :: rest → s.ctx c = .active (.rollingBack k) e → e.markerWritten = false → 1 ≤ p.slot →
      s.headJob = some ⟨c, .restore p⟩)

/-- DISCARD (R108): the checks in their order; taken, the context is DISCARDING, its cause and fault fields are gone,
and an entry without resume position joins the queue. -/
def Obligations.DiscardIsTaken : Prop :=
  ∀ (s : State) (b : Byte), s.inReset = false →
    (s.mode ≠ .run → exec (.discard b) s = .next (s.replied [0x82#8])) ∧
    (s.mode = .run → 7 < b.toNat → exec (.discard b) s = .next (s.replied [0x81#8])) ∧
    (∀ c : CtxNum, s.mode = .run → b.toNat = c.val →
      ((∀ k f e, s.ctx c ≠ .active (.faulted k f) e) → exec (.discard b) s = .next (s.replied [0x84#8])) ∧
      (∀ k f e, s.ctx c = .active (.faulted k f) e →
        exec (.discard b) s = .next ((State.replied { s.setCtx c (.active .discarding e) with
          queue := s.queue ++ [⟨c, none⟩] } [0x01#8]).arbitrate)))

/-- GET_CONTEXT (R20): the 29 bytes, in every mode; an absent field is all ones, except idle remaining, which is
0; state, cause, fault kind and fault origin have the codes of R3; a FREE context has no counts or chain length (log 15). -/
def Obligations.ContextsAreRead : Prop :=
  ∀ (s : State) (b : Byte), s.inReset = false →
    (7 < b.toNat → exec (.getContext b) s = .next (s.replied [0x81#8])) ∧
    (∀ c : CtxNum, b.toNat = c.val →
      ∃ place : Byte,
        ((∀ q ∈ s.queue, q.ctx ≠ c) → place = 0xFF#8) ∧
        (∀ front q back, s.queue = front ++ q :: back → q.ctx = c → (∀ x ∈ front, x.ctx ≠ c) →
          place = BitVec.ofNat 8 (front.length + 1)) ∧
        let none16 : List Byte := [0xFF#8, 0xFF#8]
        let two (n : Nat) : List Byte := be16 (BitVec.ofNat 16 n)
        let yes (y : Bool) : Byte := if y then 1#8 else 0#8
        (s.ctx c = .free →
          exec (.getContext b) s = .next (s.replied (0x00#8 :: ([b, 0#8, 0xFF#8] ++ none16 ++ [0xFF#8] ++ none16 ++
            none16 ++ none16 ++ [0xFF#8, 0xFF#8, 0xFF#8] ++ none16 ++ none16 ++ none16 ++ [0#8, 0#8] ++
            [place, 0xFF#8, 0xFF#8] ++ none16 ++ [0xFF#8])))) ∧
        (∀ p e, s.ctx c = .active p e →
          exec (.getContext b) s = .next (s.replied (0x00#8 ::
            let cause (k : Cause) : Byte :=
              match k with
              | .abortCmd => 1#8 | .idle => 2#8 | .guard => 3#8 | .capacity => 4#8 | .threshold => 5#8
              | .recovery => 6#8
            ([b, (match p with
                | .opened _ => 1#8 | .committing => 2#8 | .rollingBack _ => 3#8 | .faulted _ _ => 4#8
                | .discarding => 5#8), BitVec.ofNat 8 e.source.val] ++ be16 e.seq ++
            [(match p with
                | .rollingBack k => cause k | .faulted k _ => cause k | _ => 0xFF#8)] ++ two e.chain.length ++
            (match e.chain.head? with | some x => two x.seg | none => none16) ++
            (match e.chain.getLast? with | some x => two x.seg | none => none16) ++
            [BitVec.ofNat 8 e.fill, yes e.headerWritten, yes e.markerWritten] ++ two (s.claimsHeld c) ++
            two e.preWritten ++ two e.restored ++
            two (match p with | .opened (some t) => t.ms | _ => 0) ++
            [place, (match p with
                | .faulted _ f => (match f.kind with | .check => 1#8 | .foreign => 2#8 | .short => 3#8 | .chain => 4#8)
                | _ => 0xFF#8),
              (match p with
                | .faulted _ f => (match f.origin with | .live => 0#8 | .recovery => 1#8)
                | _ => 0xFF#8)] ++
            (match p with
              | .faulted _ f => (match f.pos with
                  | some q => two q.seg ++ [BitVec.ofNat 8 q.slot]
                  | none => none16 ++ [0xFF#8])
              | _ => none16 ++ [0xFF#8]))))))

/-! ### Guards -/

/-- SET_GUARD (R116): the checks in their order; taken, the entry is replaced in whole, it becomes ARMING or UNARMED,
and no event is raised.  An arming read under way for it is no longer wanted (R118): that is all that may change in
the grant in progress. -/
def Obligations.GuardsAreSet : Prop :=
  ∀ (s : State) (x en : Byte) (a : WideAddr) (v m : Word) (tr ac bo : Byte), s.inReset = false →
    (s.mode = .frozen → exec (.setGuard x en a v m tr ac bo) s = .next (s.replied [0x82#8])) ∧
    (s.mode ≠ .frozen →
      (7 < x.toNat ∨ 1 < en.toNat ∨ 0x3FFFFF < a.toNat ∨ 2 < tr.toNat ∨ 2 < ac.toNat ∨ 8 < bo.toNat →
        exec (.setGuard x en a v m tr ac bo) s = .next (s.replied [0x81#8])) ∧
      (∀ i : Fin 8, x.toNat = i.val → en.toNat ≤ 1 → a.toNat ≤ 0x3FFFFF → tr.toNat ≤ 2 → ac.toNat ≤ 2 → bo.toNat ≤ 8 →
        let g : Guard := ⟨en.toNat == 1, BitVec.ofNat 22 a.toNat, v, m,
          (match tr.toNat with | 0 => .onBreak | 1 => .onMake | _ => .onBoth),
          (match ac.toNat with | 0 => .note | 1 => .rollbackWriter | _ => .holdCommit),
          (if h : bo.toNat < 8 then some ⟨bo.toNat, h⟩ else none), if en.toNat = 1 then .arming else .unarmed⟩
        (en.toNat = 1 → s.inWindow g.addr = true → exec (.setGuard x en a v m tr ac bo) s = .next (s.replied [0x81#8])) ∧
        ((en.toNat = 1 → s.inWindow g.addr = false) →
          ((∀ y, s.grant = some y → ∀ w, y.task ≠ .armingRead i w) →
            exec (.setGuard x en a v m tr ac bo) s =
              .next (((s.setGuard i g).replied [0x00#8]).arbitrate)) ∧
          (∀ y w, s.grant = some y → y.task = .armingRead i w →
            exec (.setGuard x en a v m tr ac bo) s =
              .next ((State.replied { s.setGuard i g with grant := some { y with task := .armingRead i false } }
                [0x00#8]).arbitrate)))))

/-- GET_GUARD (R117): in every mode the entry's 16 bytes as they stand, or BAD_ARGUMENT with no result; nothing
changes. -/
def Obligations.GuardsAreRead : Prop :=
  ∀ (s : State) (b : Byte), s.inReset = false →
    (7 < b.toNat → exec (.getGuard b) s = .next (s.replied [0x81#8])) ∧
    (∀ i : Fin 8, b.toNat = i.val →
      let g := s.guard i
      exec (.getGuard b) s = .next (s.replied (0x00#8 ::
        ([if g.enable then 1#8 else 0#8] ++ be24 (g.addr.setWidth 24) ++ be32 g.expected ++ be32 g.mask ++
        [(match g.trigger with | .onBreak => 0#8 | .onMake => 1#8 | .onBoth => 2#8),
          (match g.action with | .note => 0#8 | .rollbackWriter => 1#8 | .holdCommit => 2#8),
          (match g.bound with | some c => BitVec.ofNat 8 c.val | none => 8#8),
          (match g.state with | .unarmed => 0#8 | .arming => 1#8 | .isMatch => 2#8 | .isMismatch => 3#8)]))))

/-- ARMING_READ (R118): the grant serves the lowest-numbered ARMING entry, which becomes MATCH or MISMATCH by the word
its address reads as; no event, no other entry and no byte of memory changes.  A read overtaken by SET_GUARD is
discarded at the end of its grant. -/
def Obligations.ArmingReadDecidesState : Prop :=
  (∀ (s : State) (i : Fin 8), s.holder = some .ga → s.grant = none → s.mode ≠ .frozen → (s.guard i).state = .arming →
    (∀ j < i, (s.guard j).state ≠ .arming) →
    let seen := s.word (s.guard i).addr
    let same := ∀ k < 32, (s.guard i).mask.getLsbD k = true → seen.getLsbD k = (s.guard i).expected.getLsbD k
    (same → exec (.armingRead .toEnd) s =
      .next (((s.freed .ga).setGuard i { s.guard i with state := .isMatch }).arbitrate)) ∧
    (¬ same → exec (.armingRead .toEnd) s =
      .next (((s.freed .ga).setGuard i { s.guard i with state := .isMismatch }).arbitrate))) ∧
  (∀ (s : State) (i : Fin 8) (y : Grant), s.holder = some .ga → s.grant = some y → y.task = .armingRead i false →
    y.todo = [] → exec (.armingRead .toEnd) s = .next ((s.freed .ga).arbitrate))

/-- The evaluation of a write for one entry (R115, R121, R124, R126): what its state becomes, and which transitions
join those that the grant reports, with the rollback request of ROLLBACK_WRITER; and for all entries, each evaluated
on its own, in ascending order (R123).  A move to MATCH, and every move by a restore, is noted as late: a COMMIT sees
it at the end of the grant (R125, R126); a move to MISMATCH by a host write counts at once (log 32). -/
def Obligations.GuardEvaluation : Prop :=
  (∀ (s : State) (y : Grant) (a : Addr) (new : Word) (w : Option CtxNum) (i : SrcNum) (restore : Bool) (j : Fin 8),
    s.grant = some y →
    let g := s.guard j
    let same := ∀ k < 32, g.mask.getLsbD k = true → new.getLsbD k = g.expected.getLsbD k
    (g.enable = false ∨ g.addr ≠ a ∨ g.state = .unarmed ∨ g.state = .arming →
      s.evaluate a new w i restore j = s) ∧
    (g.state = .isMatch → same → s.evaluate a new w i restore j = s) ∧
    (g.state = .isMismatch → ¬ same → s.evaluate a new w i restore j = s) ∧
    (∀ make : Bool, g.enable = true → g.addr = a →
      ((make = false ∧ g.state = .isMatch ∧ ¬ same) ∨ (make = true ∧ g.state = .isMismatch ∧ same)) →
      let moved := s.setGuard j { g with state := if make then .isMatch else .isMismatch }
      let late := if make = true ∨ restore = true then y.late ++ [j] else y.late
      let request := !restore && decide (g.action = .rollbackWriter) && w.isSome &&
        (decide (g.bound = none) || decide (g.bound = w))
      ((make = true ∧ g.trigger = .onBreak) ∨ (make = false ∧ g.trigger = .onMake) →
        s.evaluate a new w i restore j = { moved with grant := some { y with late := late } }) ∧
      (g.trigger = .onBoth ∨ (make = true ∧ g.trigger = .onMake) ∨ (make = false ∧ g.trigger = .onBreak) →
        s.evaluate a new w i restore j =
          { moved with grant := some { y with
              hits := y.hits ++ [⟨j, make, a, w, i, restore, request⟩], late := late } }))) ∧
  (∀ (s : State) (y : Grant) (a : Addr) (new : Word) (w : Option CtxNum) (i : SrcNum) (restore : Bool),
    s.grant = some y →
    let all : List (Fin 8) := [0, 1, 2, 3, 4, 5, 6, 7]
    let move (j : Fin 8) : Option Bool :=
      let g := s.guard j
      let same := new &&& g.mask = g.expected &&& g.mask
      if g.enable = true ∧ g.addr = a ∧ g.state = .isMatch ∧ ¬ same then some false
      else if g.enable = true ∧ g.addr = a ∧ g.state = .isMismatch ∧ same then some true
      else none
    let hit (j : Fin 8) : Option GuardHit :=
      let g := s.guard j
      let request := !restore && decide (g.action = .rollbackWriter) && w.isSome &&
        (decide (g.bound = none) || decide (g.bound = w))
      match move j with
      | some make =>
        if g.trigger = .onBoth ∨ (g.trigger = .onMake ∧ make = true) ∨ (g.trigger = .onBreak ∧ make = false) then
          some ⟨j, make, a, w, i, restore, request⟩
        else none
      | none => none
    let late (j : Fin 8) : Bool := match move j with | some make => make || restore | none => false
    ∃ t, s.evaluateAll a new w i restore = t ∧
      t = { s with guards := t.guards, grant := some { y with
        hits := y.hits ++ all.filterMap hit, late := y.late ++ all.filter late } } ∧
      ∀ j, t.guard j = match move j with
        | some make => { s.guard j with state := if make then .isMatch else .isMismatch }
        | none => s.guard j)

/-- What a grant does with the transitions of the write it made (R120, R122 to R124, R126).  The write is evaluated
with the word it leaves in memory, the writer's context and source of R120, and the restore flag; at the end of the
grant the GUARD events are raised in the order found, with their fields, and then the requests are made in that order,
whatever the event mask holds (log 30), before the other reports of the grant (log 14).  A reloaded idle timer starts
a millisecond (log 5).  The first three clauses carry the grant to its last access by the operand of log 4, and the
word of a restored record is read as in log 19. -/
def Obligations.GuardEventsAreReported : Prop :=
  (∀ (s : State) (a : Access) (l : Option Nat) (own : Option CtxNum) (n : Nat), 2 ≤ n →
    s.holder = some .hp → s.grant = none → s.access = some ⟨a, .toMemory .forwarded, l⟩ → a.write = true →
    s.classify a = .send .forwarded → (∃ i, (s.guard i).enable = true ∧ (s.guard i).addr = a.addr) →
    ((s.owner a.addr = none ∧ own = none) ∨
      (∃ c, s.owner a.addr = some c ∧ (s.source a.src).bound = some c ∧ own = some c)) →
    ∃ m, Memory.SameOutside s.mem m [a.addr] ∧
      (∀ i < 4, Memory.byte m (byteKey a.addr i) =
        if a.be.getLsbD i then byteOf a.data i else Memory.byte s.mem (byteKey a.addr i)) ∧
      exec (.forwardedWrite (.accesses n)) s =
        .next (State.evaluateAll { s with mem := m, grant := some ⟨.forwardedWrite a own, [], [], []⟩ }
          a.addr (Memory.word m a.addr) own a.src false)) ∧
  (∀ (s : State) (a : Access) (l : Option Nat) (c : CtxNum) (q : BitVec 16) (i : Option Idle) (e : Epoch) (n : Nat),
    10 ≤ n → s.holder = some .hp → s.grant = none → s.access = some ⟨a, .toMemory (.journalled c q), l⟩ →
    s.classify a = .send (.journalled c q) → s.ctx c = .active (.opened i) e → s.owner a.addr = none →
    s.claims.length < 512 → s.claimsHeld c < s.limits.qclm → s.areaFits → (s.target e).seg < s.nseg → 1 ≤ e.fill →
    (15 ≤ e.fill → e.chain.length < s.limits.qseg ∧ s.pool ≠ []) →
    (∃ i, (s.guard i).enable = true ∧ (s.guard i).addr = a.addr) →
    ∃ (u : State) (w : Working), exec (.journalledWriteGrant (.accesses n)) s =
        .next (u.evaluateAll a.addr (u.word a.addr) (some c) a.src false) ∧
      u.guards = s.guards ∧ u.grant = some ⟨.journalledWrite w, [], [], []⟩ ∧ w.ctx = c ∧ w.addr = a.addr) ∧
  (∀ (s : State) (c : CtxNum) (z : SlotPos) (k : Cause) (e : Epoch) (n : Nat), 7 ≤ n →
    s.holder = some .be → s.grant = none → s.mode ≠ .frozen → (s.work = .idle ∨ ∃ v, s.work = .replay v) →
    s.headJob = some ⟨c, .restore z⟩ → s.ctx c = .active (.rollingBack k) e → e.chain ≠ [] →
    let r := s.slot z.seg z.slot
    let a := addrField r.w1
    r.belongs ⟨s.gen, c, e.source, chainIdx e.chain z.seg, e.seq⟩ z.slot = true → r.isKind .pre = true →
    r.passes = true → s.inWindow a = false → (∃ i, (s.guard i).enable = true ∧ (s.guard i).addr = a) →
    ∃ (u t : State), exec (.restoreStep (.accesses n)) s = .next t ∧ u.guards = s.guards ∧
      u.grant = some ⟨.restore c z (.restorable a r.w2) (decide (s.owner a = some c)), [], [], []⟩ ∧
      t.guards = (u.evaluateAll a r.w2 (some c) e.source true).guards ∧
      t.grant = (u.evaluateAll a r.w2 (some c) e.source true).grant) ∧
  (∀ (s : State) (y : Grant), s.grant = some y → y.todo = [] →
    let code (h : GuardHit) : Byte :=
      BitVec.ofNat 8 ((if h.make then 2 else 1) + (if h.restore then 4 else 0) + (if h.request then 8 else 0))
    let request (t : State) (h : GuardHit) : State :=
      match h.request, h.ctx with
      | true, some c =>
        match t.ctx c with
        | .active (.opened _) e =>
          (t.takeRollback c .guard).deliver ⟨some e.source, [], decide (t.claimsHeld c = 0)⟩
        | _ => t
      | _, _ => t
    let told (t : State) : State :=
      y.hits.foldl request (y.hits.foldl (fun t h =>
        t.raise .guard h.ctx (some h.src) (some (code h)) (BitVec.ofNat 16 h.entry.val) (some h.addr)) t)
    let done : State := { s.freed .hp with access := none, herr := false, lastEnding := some .done }
    let reloaded (c : CtxNum) : State :=
      match s.ctx c with
      | .active (.opened _) e =>
        if s.limits.idlelim = 0 then done else done.setCtx c (.active (.opened (some ⟨s.limits.idlelim, 0⟩)) e)
      | _ => done
    (∀ a reload, s.holder = some .hp → y.task = .forwardedWrite a reload →
      exec (.forwardedWrite .toEnd) s =
        .next ((told (match reload with | some c => reloaded c | none => done)).arbitrate)) ∧
    (∀ w, s.holder = some .hp → y.task = .journalledWrite w →
      exec (.journalledWriteGrant .toEnd) s = .next ((told (reloaded w.ctx)).arbitrate)) ∧
    (∀ c z a pre owned p e, s.holder = some .be → (s.work = .idle ∨ ∃ v, s.work = .replay v ∧ s.queue ≠ []) →
      y.task = .restore c z (.restorable a pre) owned → s.ctx c = .active p e →
      exec (.restoreStep .toEnd) s =
        .next (((told { s.freed .be with job := some ⟨c, phaseAfter e.chain z⟩ }).deliver
          ⟨none, if owned then [a] else [], false⟩).arbitrate)))

/-! ### Host-path grants -/

/-- FORWARDED_READ (R67): the access ends DONE with the word of its address on HD, and nothing else changes but the
port. -/
def Obligations.ForwardedReadReturnsWord : Prop :=
  ∀ (s : State) (a : Access) (l : Option Nat), s.holder = some .hp → s.grant = none →
    s.access = some ⟨a, .toMemory .forwarded, l⟩ → a.write = false → s.classify a = .send .forwarded →
    exec (.forwardedRead .toEnd) s =
      .next ({ s.freed .hp with access := none, herr := false, lastEnding := some .done, hd := s.word a.addr }.arbitrate)

/-- FORWARDED_WRITE (R67, R12, R48): the enabled bytes of the addressed word take the data and every other byte of
memory stands; the access ends DONE; the idle timer is reloaded when the word is the writer's own claim, a new millisecond
beginning (log 5); claims stand.  The last clause gives the whole state when no guard watches the word. -/
def Obligations.ForwardedWriteStoresBytes : Prop :=
  ∀ (s : State) (a : Access) (l : Option Nat), s.holder = some .hp → s.grant = none →
    s.access = some ⟨a, .toMemory .forwarded, l⟩ → a.write = true → s.classify a = .send .forwarded →
    ∃ m t, exec (.forwardedWrite .toEnd) s = .next t ∧ t.mem = m ∧
      (∀ i < 4, Memory.byte m (byteKey a.addr i) =
        if a.be.getLsbD i then byteOf a.data i else Memory.byte s.mem (byteKey a.addr i)) ∧
      Memory.SameOutside s.mem m [a.addr] ∧
      t.access = none ∧ t.herr = false ∧ t.hd = s.hd ∧ t.lastEnding = some .done ∧ t.claims = s.claims ∧
      t.job = s.job ∧ t.counters = s.counters ∧ t.mode = s.mode ∧ t.lastHolder = .hp ∧ t.grant = none ∧
      (∀ c e p, s.ctx c = .active p e → s.owner a.addr = none → t.ctx c = .active p e) ∧
      ((∀ i, (s.guard i).enable = true → (s.guard i).addr ≠ a.addr) →
        let stored : State := { s.freed .hp with mem := m, access := none, herr := false, lastEnding := some .done }
        (s.owner a.addr = none → t = stored.arbitrate) ∧
        (∀ c e i, s.owner a.addr = some c → (s.source a.src).bound = some c → s.ctx c = .active (.opened i) e →
          t = (stored.setCtx c (.active (.opened (if s.limits.idlelim = 0 then i
            else some ⟨s.limits.idlelim, 0⟩)) e)).arbitrate))

/-- JOURNALLED_WRITE_GRANT carried to its end (R79, R84 to R89): the claim, the header when the target slot is 1, the
PRE record with the word's old value, the host write with its byte enables, the context's new chain, fill and count,
and the end of the access; every byte of memory outside those slots and that word stands.  The last clause, for a word
that no guard watches, gives the reloaded idle timer, a new millisecond beginning (log 5), and the event queue:
LOW_WATER when taking a segment crosses the setting (R42, R79), and nothing else. -/
def Obligations.JournalledWriteRecordsAndStores : Prop :=
  ∀ (s : State) (a : Access) (l : Option Nat) (c : CtxNum) (q : BitVec 16) (i : Option Idle) (e : Epoch),
    s.holder = some .hp → s.grant = none → s.access = some ⟨a, .toMemory (.journalled c q), l⟩ →
    s.classify a = .send (.journalled c q) → s.ctx c = .active (.opened i) e → s.owner a.addr = none →
    s.claims.length < 512 → s.claimsHeld c < s.limits.qclm → s.areaFits → e.chain ≠ [] → 1 ≤ e.fill → e.fill ≤ 15 →
    (e.fill = 15 → e.chain.length < s.limits.qseg ∧ s.pool ≠ []) → (s.target e).seg < s.nseg →
    let g := s.target e
    let head : List Addr := if g.slot = 1 then s.slotWords g.seg 0 else []
    ∃ m t, exec (.journalledWriteGrant .toEnd) s = .next t ∧ t.mem = m ∧
      s.slotIn m g.seg g.slot = preRecord s.gen c a.src g.idx g.slot e.seq a.addr (s.word a.addr) ∧
      (g.slot = 1 → s.slotIn m g.seg 0 = headerRecord s.gen c a.src g.idx g.seg e.seq) ∧
      (∀ j < 4, Memory.byte m (byteKey a.addr j) =
        if a.be.getLsbD j then byteOf a.data j else Memory.byte s.mem (byteKey a.addr j)) ∧
      Memory.SameOutside s.mem m (a.addr :: (head ++ s.slotWords g.seg g.slot)) ∧
      t.claims = ⟨a.addr, c⟩ :: s.claims ∧
      (∃ p, t.ctx c = .active p { e with
        chain := if e.fill < 15 then e.chain else e.chain ++ [⟨g.seg, g.idx⟩], fill := g.slot + 1,
        headerWritten := e.headerWritten || (g.slot == 1 && g.idx == 0), preWritten := e.preWritten + 1 }) ∧
      (∀ d, d ≠ c → t.ctx d = s.ctx d) ∧ t.pool = (if e.fill < 15 then s.pool else s.pool.tail) ∧
      t.access = none ∧ t.herr = false ∧ t.hd = s.hd ∧ t.lastEnding = some .done ∧ t.lastHolder = .hp ∧ t.grant = none ∧
      t.counters = s.counters ∧ t.job = s.job ∧ t.epochSeq = s.epochSeq ∧ t.regions = s.regions ∧ t.mode = s.mode ∧
      ((∀ k, (s.guard k).enable = true → (s.guard k).addr ≠ a.addr) →
        t.guards = s.guards ∧ t.sources = s.sources ∧ t.queue = s.queue ∧
        (∃ e', t.ctx c = .active (.opened (if s.limits.idlelim = 0 then i else some ⟨s.limits.idlelim, 0⟩)) e') ∧
        (let warned :=
          if e.fill = 15 ∧ s.limits.lowwater ≤ s.pool.length ∧ s.pool.length - 1 < s.limits.lowwater then
            s.raise .lowWater none none none (BitVec.ofNat 16 (s.pool.length - 1)) none
          else s
         t.events = warned.events ∧ t.eventSeq = warned.eventSeq ∧ t.lostEvents = warned.lostEvents))

/-- What a journalled write's start step does when a capacity check fails (R49, R81 to R83), and what a host-path grant
whose repeated classification changed does (R66, R80): the grant ends with no memory access and no claim, and the
outcome applies to the access.  Under JFULL = ABORT the refusal is counted and a rollback with cause CAPACITY is
requested (R82): an empty epoch is freed at once; when the count reaches its threshold, either request may be taken
first, which is free (log 11), and both are made (R132).  What counts as changed is read as in log 13. -/
def Obligations.GrantStartMayEndGrant : Prop :=
  (∀ (s : State) (a : Access) (l : Option Nat) (c : CtxNum) (q : BitVec 16) (x : Extent),
    s.holder = some .hp → s.grant = none → s.access = some ⟨a, .toMemory (.journalled c q), l⟩ →
    ∀ i e, s.classify a = .send (.journalled c q) → s.ctx c = .active (.opened i) e →
      ∀ k : RefusalKind,
        (k = .claimFull ↔ 512 ≤ s.claims.length) →
        (k = .quota ↔ s.claims.length < 512 ∧ (s.limits.qclm ≤ s.claimsHeld c ∨
          (15 ≤ e.fill ∧ s.limits.qseg ≤ e.chain.length))) →
        (k = .journalFull ↔ s.claims.length < 512 ∧ s.claimsHeld c < s.limits.qclm ∧ 15 ≤ e.fill ∧
          e.chain.length < s.limits.qseg ∧ s.pool = []) →
        (k = .claimFull ∨ k = .quota ∨ k = .journalFull) →
        (s.limits.jfull = .refuse ∨ (s.limits.jfull = .hold ∧ k = .quota) →
          exec (.journalledWriteGrant x) s = .next (((s.freed .hp).refuse a k).arbitrate)) ∧
        (s.limits.jfull = .hold → k ≠ .quota →
          exec (.journalledWriteGrant x) s = .next
            (((s.freed .hp).enterHold ⟨a, .toMemory (.journalled c q), l⟩
              (if k = .claimFull then .claimFull else .journalFull)).arbitrate)) ∧
        (s.limits.jfull = .abort →
          let v := (s.counter a.src .capacity).value
          let v' := if v ≠ 255#8 then v + 1#8
            else if (s.settings .capacity).holdMode = .saturate then 255#8 else 0#8
          let reached := (v ≠ 255#8 ∨ (s.settings .capacity).holdMode = .roll) ∧ v' = (s.settings .capacity).threshold
          let ended (n : Nat) : State :=
            { s.freed .hp with access := none, herr := true, hd := if a.write then s.hd else 0#32,
                               lastEnding := some (.refused k), choices := n }
          (¬ reached →
            exec (.journalledWriteGrant x) s =
              .next ((((ended s.choices).count a.src .capacity).takeRollback c .capacity).arbitrate)) ∧
          (reached →
            exec (.journalledWriteGrant x) s =
              .next ((((ended (s.choices + 1)).count a.src .capacity).takeRollback c .capacity).arbitrate) ∨
            exec (.journalledWriteGrant x) s =
              .next ((((ended (s.choices + 1)).takeRollback c .capacity).countBound a.src .capacity
                (s.source a.src).bound).arbitrate)) ∧
          (s.claimsHeld c = 0 → ¬ reached →
            let counted : State :=
              (ended s.choices).setCounter a.src .capacity ⟨v', (s.counter a.src .capacity).reached⟩
            let left := (State.setCtx { counted with pool := s.pool ++ e.chain.map (·.seg) } c .free).setSource
              e.source ⟨none, (s.source e.source).fenced⟩
            exec (.journalledWriteGrant x) s =
              .next ((left.raise .rolledBack (some c) (some e.source) (some 4#8) 0#16 none).arbitrate)) ∧
          ∃ t, exec (.journalledWriteGrant x) s = .next t ∧ t.access = none ∧ t.herr = true ∧
            t.lastEnding = some (.refused k) ∧ t.mem = s.mem ∧ t.claims = s.claims ∧
            (s.claimsHeld c = 0 → t.ctx c = .free) ∧
            (s.claimsHeld c ≠ 0 → ∃ y, t.ctx c = .active (.rollingBack y) e ∧
              (y = .capacity ∨ ((s.settings .capacity).abort = true ∧ y = .threshold ∧
                (s.source a.src).bound = some c))))) ∧
  (∀ (s : State) (a : Access) (r : Route) (l : Option Nat) (v : Verdict) (x : Extent),
    s.holder = some .hp → s.grant = none → s.mode ≠ .frozen → s.access = some ⟨a, .toMemory r, l⟩ →
    s.classify a = v → v ≠ .send r →
    let applied : State :=
      match v with
      | .done => { s.freed .hp with access := none, herr := false, lastEnding := some .done }
      | .refused k => (s.freed .hp).refuse a k
      | .hold =>
        (match l.getD s.limits.holdlim with
          | 0 => (s.freed .hp).refuse a (.holdExpired .conflict)
          | n + 1 => { s.freed .hp with access := some ⟨a, .held .conflict, some (n + 1)⟩ })
      | .send r' => { s.freed .hp with access := some ⟨a, .toMemory r', l⟩ }
    (∀ c q, r = .journalled c q → exec (.journalledWriteGrant x) s = .next applied.arbitrate) ∧
    (r = .forwarded → a.write = false → exec (.forwardedRead x) s = .next applied.arbitrate) ∧
    (r = .forwarded → a.write = true → exec (.forwardedWrite x) s = .next applied.arbitrate))

/-- A journalled write cut by a reset after any number of its accesses (R93): either the host word still holds its
pre-image, or a complete PRE record holding that pre-image stands in the target slot, passes its check and belongs to
the epoch; and no byte outside the grant's slots and the host word has changed.  The cut between two accesses is
log 4's operand. -/
def Obligations.CutJournalledWriteKeepsPreimage : Prop :=
  ∀ (s : State) (a : Access) (l : Option Nat) (c : CtxNum) (q : BitVec 16) (i : Option Idle) (e : Epoch) (n : Nat)
    (t u : State),
    s.holder = some .hp → s.grant = none → s.access = some ⟨a, .toMemory (.journalled c q), l⟩ →
    s.classify a = .send (.journalled c q) → s.ctx c = .active (.opened i) e → s.owner a.addr = none →
    s.claims.length < 512 → s.claimsHeld c < s.limits.qclm → s.areaFits → e.chain ≠ [] → 1 ≤ e.fill → e.fill ≤ 15 →
    (e.fill = 15 → e.chain.length < s.limits.qseg ∧ s.pool ≠ []) → (s.target e).seg < s.nseg → (s.target e).idx < 256 →
    exec (.journalledWriteGrant (.accesses n)) s = .next t → exec .reset t = .next u →
    let g := s.target e
    let r := s.slotIn u.mem g.seg g.slot
    (u.word a.addr = s.word a.addr ∨
      (r.isKind .pre = true ∧ r.passes = true ∧ r.belongs ⟨s.gen, c, a.src, g.idx, e.seq⟩ g.slot = true ∧
        addrField r.w1 = a.addr ∧ r.w2 = s.word a.addr)) ∧
    Memory.SameOutside s.mem u.mem (a.addr :: (s.slotWords g.seg 0 ++ s.slotWords g.seg g.slot))

/-! ### The Replay Engine -/

/-- The head job and its first phase (R95, R101): the engine's record, or, at the first step of the entry at the head,
the phase chosen from the context as it stands; a rollback starts at its resume position, or at the newest record, and
at slot 0 goes to its marker at once.  After a step the position moves to the next older record. -/
def Obligations.HeadJobIsChosen : Prop :=
  (∀ (s : State) (j : Job), s.job = some j → s.headJob = some j) ∧
  (∀ s : State, s.job = none → s.queue = [] → s.headJob = none) ∧
  (∀ (s : State) (q : QueueEntry) (rest : List QueueEntry) (p : Phase) (e : Epoch), s.job = none →
    s.queue = q :: rest → s.ctx q.ctx = .active p e →
    (e.markerWritten = true → s.headJob = some ⟨q.ctx, .freeing⟩) ∧
    (e.markerWritten = false → (p = .committing ∨ p = .discarding) → s.headJob = some ⟨q.ctx, .marker⟩) ∧
    (∀ k, e.markerWritten = false → p = .rollingBack k →
      (∀ z, q.resume = some z → 1 ≤ z.slot → s.headJob = some ⟨q.ctx, .restore z⟩) ∧
      (∀ x, q.resume = none → e.chain.getLast? = some x → 2 ≤ e.fill →
        s.headJob = some ⟨q.ctx, .restore ⟨x.seg, e.fill - 1⟩⟩) ∧
      (q.resume = none → e.fill = 1 → s.headJob = some ⟨q.ctx, .marker⟩))) ∧
  (∀ (chain : List ChainEntry) (n k : Nat), 1 < k → phaseAfter chain ⟨n, k⟩ = .restore ⟨n, k - 1⟩) ∧
  (∀ (front back : List ChainEntry) (x y : ChainEntry), (front ++ x :: y :: back).Pairwise (fun a b => a.seg ≠ b.seg) →
    phaseAfter (front ++ x :: y :: back) ⟨y.seg, 1⟩ = .restore ⟨x.seg, 14⟩) ∧
  (∀ (x : ChainEntry) (back : List ChainEntry), (x :: back).Pairwise (fun a b => a.seg ≠ b.seg) →
    phaseAfter (x :: back) ⟨x.seg, 1⟩ = .marker)

/-- The marker grants (R97, R105, R109, R51): COMMIT_MARKER, ABORT_MARKER and DISCARD_MARKER write their record at the
slot fill names in the chain's last segment and no other byte; marker written becomes yes and FREEING follows; the
commit and the discard release every claim of the context and report it. -/
def Obligations.MarkersAreWritten : Prop :=
  ∀ (s : State) (c : CtxNum) (p : Phase) (e : Epoch) (x : ChainEntry),
    s.holder = some .be → s.grant = none → s.mode ≠ .frozen → (s.work = .idle ∨ ∃ r, s.work = .replay r) →
    s.headJob = some ⟨c, .marker⟩ → s.ctx c = .active p e → e.chain.getLast? = some x → s.areaFits → x.seg < s.nseg →
    e.fill ≤ 15 →
    ∃ m : List Host.Cell,
      let kind : RecordKind := if p = .committing then .commit else .abort
      let flag : Word := if p = .discarding then 1#32 else 0#32
      let marked : State := { (s.freed .be).setCtx c (.active p { e with markerWritten := true }) with
        mem := m, job := some ⟨c, .freeing⟩ }
      let released : State := { marked with claims := s.claims.filter (fun k => k.owner ≠ c) }
      let addrs := (s.claims.filter (fun k => k.owner = c)).map (·.addr)
      s.slotIn m x.seg e.fill = markerRecord kind flag s.gen c e.source x.idx e.fill e.seq e.preWritten ∧
      Memory.SameOutside s.mem m (s.slotWords x.seg e.fill) ∧
      (p = .committing → exec (.commitMarker .toEnd) s = .next ((released.deliver ⟨none, addrs, false⟩).arbitrate)) ∧
      (p = .discarding → exec (.discardMarker .toEnd) s = .next ((released.deliver ⟨none, addrs, false⟩).arbitrate)) ∧
      (∀ k, p = .rollingBack k → exec (.abortMarker .toEnd) s = .next marked.arbitrate)

/-- RESTORE_STEP (R102 to R104, R106, R50, R52), in RUN and in recovery's replay (R151): a record restored before is
passed over; a slot that does not belong, or whose kind is neither PRE nor RESTORED, faults FOREIGN; one that fails its
check, or whose word lies in the journal window, faults CHECK; a fault writes nothing, sets the context FAULTED with
the position, with origin RECOVERY in replay and LIVE otherwise, drops the job and raises FAULTED, and replay ends when
it was the last.  A restorable record has its word put back and its descriptor rewritten RESTORED, and no other byte
changed; the claim on the word, when this context owns it, is released, and records restored rises.  The record's word
is read as in log 19. -/
def Obligations.RestoreStepOutcomes : Prop :=
  ∀ (s : State) (c : CtxNum) (z : SlotPos) (k : Cause) (e : Epoch),
    s.holder = some .be → s.grant = none → s.mode ≠ .frozen →
    (s.work = .idle ∨ ∃ v, s.work = .replay v ∧ s.queue ≠ []) → s.headJob = some ⟨c, .restore z⟩ →
    s.ctx c = .active (.rollingBack k) e → e.chain ≠ [] →
    let r := s.slot z.seg z.slot
    let mine := r.belongs ⟨s.gen, c, e.source, chainIdx e.chain z.seg, e.seq⟩ z.slot
    let a := addrField r.w1
    let next : Job := ⟨c, phaseAfter e.chain z⟩
    (mine = true → r.isKind .restored = true → r.passes = true →
      exec (.restoreStep .toEnd) s = .next ({ s.freed .be with job := some next }.arbitrate)) ∧
    (∀ f : FaultKind,
      ((f = .foreign ∧ (mine = false ∨ (r.isKind .pre = false ∧ r.isKind .restored = false))) ∨
        (f = .check ∧ mine = true ∧ (r.isKind .pre = true ∨ r.isKind .restored = true) ∧ r.passes = false) ∨
        (f = .check ∧ mine = true ∧ r.isKind .pre = true ∧ r.passes = true ∧ s.inWindow a = true)) →
      let origin : FaultOrigin := match s.work with | .replay _ => .recovery | _ => .live
      let faulted : State := { (s.freed .be).setCtx c (.active (.faulted k ⟨f, origin, some z⟩) e) with
        queue := s.queue.tail, job := none }
      let raised := faulted.raise .faulted (some c) (some e.source) (some k.code) (BitVec.ofNat 16 e.restored)
        (some (s.slotAddr z.seg z.slot 0))
      (∀ v, s.work = .replay v → s.mode = .recovering → s.queue.tail = [] →
        exec (.restoreStep .toEnd) s = .next ((raised.finishReplay v).arbitrate)) ∧
      (s.work = .idle ∨ s.mode ≠ .recovering ∨ s.queue.tail ≠ [] →
        exec (.restoreStep .toEnd) s = .next raised.arbitrate)) ∧
    (mine = true → r.isKind .pre = true → r.passes = true → s.inWindow a = false → s.areaFits → z.seg < s.nseg →
      z.slot ≤ 15 →
      ∃ m t, exec (.restoreStep .toEnd) s = .next t ∧ t.mem = m ∧ Memory.word m a = r.w2 ∧
        s.slotIn m z.seg z.slot = { r with w0 := 3#4 ++ r.w0.extractLsb' 0 28 } ∧
        Memory.SameOutside s.mem m [a, s.slotAddr z.seg z.slot 0] ∧
        t.claims = s.claims.filter (fun y => !(y.addr == a && y.owner == c)) ∧
        t.ctx c = .active (.rollingBack k) { e with restored := e.restored + 1 } ∧ t.job = some next ∧
        ((∀ i, (s.guard i).enable = true → (s.guard i).addr ≠ a) →
          let restored : State := { (s.freed .be).setCtx c (.active (.rollingBack k) { e with restored := e.restored + 1 }) with
            mem := m, claims := s.claims.filter (fun y => !(y.addr == a && y.owner == c)), job := some next }
          t = (restored.deliver ⟨none, if s.owner a = some c then [a] else [], false⟩).arbitrate))

/-- A restore step, of RUN or of recovery's replay, cut by a reset after any number of its accesses (R113, R153): the word holds the epoch's value and the
record is PRE, or the word holds the pre-image and the record is PRE or RESTORED; the record passes its check in every
case, and no other byte has changed.  The cut between two accesses is log 4's operand, and
the record's word is read as in log 19. -/
def Obligations.CutRestoreKeepsRecord : Prop :=
  ∀ (s : State) (c : CtxNum) (z : SlotPos) (k : Cause) (e : Epoch) (n : Nat) (t u : State),
    s.holder = some .be → s.grant = none → s.mode ≠ .frozen → (s.work = .idle ∨ ∃ v, s.work = .replay v) →
    s.headJob = some ⟨c, .restore z⟩ →
    s.ctx c = .active (.rollingBack k) e → e.chain ≠ [] → s.areaFits → z.seg < s.nseg → z.slot ≤ 15 →
    let r := s.slot z.seg z.slot
    let a := addrField r.w1
    r.belongs ⟨s.gen, c, e.source, chainIdx e.chain z.seg, e.seq⟩ z.slot = true → r.isKind .pre = true →
    r.passes = true → s.inWindow a = false →
    exec (.restoreStep (.accesses n)) s = .next t → exec .reset t = .next u →
    let r' := s.slotIn u.mem z.seg z.slot
    ((u.word a = s.word a ∧ r' = r) ∨ (u.word a = r.w2 ∧ r' = r) ∨
      (u.word a = r.w2 ∧ r'.isKind .restored = true ∧ r'.w1 = r.w1 ∧ r'.w2 = r.w2 ∧ r'.w3 = r.w3)) ∧
    r'.passes = true ∧ r'.belongs ⟨s.gen, c, e.source, chainIdx e.chain z.seg, e.seq⟩ z.slot = true ∧
    Memory.SameOutside s.mem u.mem [a, s.slotAddr z.seg z.slot 0]

/-- FREEING_STEP (R40, R98, R99, R110), in RUN and in recovery's replay (R151): the header of the chain's head segment
is rewritten RELEASED by one word write, the segment moves to the pool tail and its return is reported; with the last
segment the job ends, the context becomes FREE and the completion event is raised, and in replay the end is counted as
finished or rolled back (R152), replay ending with the last job.  The descriptor's bits 2 to 0 are 0 (R166, log 18), and
the event comes before the report (log 14). -/
def Obligations.FreeingStepReturnsSegment : Prop :=
  ∀ (s : State) (c : CtxNum) (p : Phase) (e : Epoch) (x : ChainEntry) (rest : List ChainEntry),
    s.holder = some .be → s.grant = none → s.mode ≠ .frozen →
    (s.work = .idle ∨ ∃ v, s.work = .replay v ∧ s.queue ≠ []) → s.headJob = some ⟨c, .freeing⟩ →
    s.ctx c = .active p e → e.chain = x :: rest →
    ∃ m : List Host.Cell,
      Memory.word m (s.slotAddr x.seg 0 0) = 6#4 ++ s.gen ++ BitVec.ofNat 8 x.idx ++ 0#4 ++ BitVec.ofNat 3 c.val ++
        BitVec.ofNat 2 e.source.val ++ 0#3 ∧
      Memory.SameOutside s.mem m [s.slotAddr x.seg 0 0] ∧
      let freed : State := { s.freed .be with mem := m, pool := s.pool ++ [x.seg] }
      (rest ≠ [] →
        exec (.freeingStep .toEnd) s =
          .next ((State.deliver { freed.setCtx c (.active p { e with chain := rest }) with job := some ⟨c, .freeing⟩ }
            ⟨none, [], true⟩).arbitrate)) ∧
      (rest = [] →
        let work : Work :=
          match s.work with
          | .replay v =>
            .replay (if c ∈ v.marked then { v with finished := v.finished + 1 }
              else { v with rolledBack := v.rolledBack + 1 })
          | w => w
        let ended : State := { freed.setCtx c .free with queue := s.queue.tail, job := none, work := work }
        let closed (t : State) : State :=
          match t.work with
          | .replay v => if t.mode = .recovering ∧ t.queue = [] then t.finishReplay v else t
          | _ => t
        (p = .committing → exec (.freeingStep .toEnd) s =
          .next ((closed ((ended.raise .committed (some c) (some e.source) none (BitVec.ofNat 16 e.preWritten) none).deliver
            ⟨none, [], true⟩)).arbitrate)) ∧
        (∀ k, p = .rollingBack k → exec (.freeingStep .toEnd) s =
          .next ((closed ((ended.raise .rolledBack (some c) (some e.source) (some k.code) (BitVec.ofNat 16 e.preWritten)
            none).deliver ⟨none, [], true⟩)).arbitrate)) ∧
        (p = .discarding → exec (.freeingStep .toEnd) s =
          .next ((closed ((ended.raise .discarded (some c) (some e.source) none (BitVec.ofNat 16 (e.preWritten - e.restored))
            none).deliver ⟨none, [], true⟩)).arbitrate)))

/-! ### Formatting and recovery -/

/-- FORMAT_STEP (R143): slot 0 of the next segment becomes a BLANK record that passes its check, and no other byte
changes; after the last segment the pool holds every segment, the sequence counter is 0, the mode is RUN and
FORMAT_DONE is raised in mode RUN. -/
def Obligations.FormatStepsWriteBlanks : Prop :=
  ∀ (s : State) (n : Nat), s.holder = some .be → s.grant = none → s.work = .format n → s.mode = .formatting →
    s.areaFits → n < s.nseg →
    ∃ m : List Host.Cell,
      (let r := s.slotIn m n 0
       r.w0 = 0#4 ++ s.gen ++ 0#20 ∧ r.w1 = 0#32 ∧ r.w2 = 0#32 ∧ seqField r.w3 = 0#16 ∧ r.passes = true) ∧
      Memory.SameOutside s.mem m (s.slotWords n 0) ∧
      (n + 1 < s.nseg →
        exec (.formatStep .toEnd) s =
          .next ({ s.freed .be with mem := m, work := .format (n + 1) }.arbitrate)) ∧
      (n + 1 = s.nseg →
        let done : State := { s.freed .be with mem := m, work := .idle, mode := .run, epochSeq := 0#16,
                                               pool := List.range s.nseg }
        exec (.formatStep .toEnd) s =
          .next ((done.raise .formatDone none none none (BitVec.ofNat 16 s.nseg) none).arbitrate))

/-- SURVEY_STEP (R146, R147, R32): a live header is kept with its segment, and nothing is written; with the last
segment the pool takes every segment without a live header, in ascending order, and a context whose live segments are
no consistent chain becomes FAULTED with kind CHAIN and raises its FAULTED event, in ascending context number (log 16),
while one with no live segment stays as it was.  Then the judgement begins with the consistent chains in ascending
context number (R148), or, with none, the jobs are queued as at its end.  The effect is at the end of the grant (log
27). -/
def Obligations.SurveyReadsHeaders : Prop :=
  ∀ (s : State) (n : Nat) (found : List LiveSeg), s.holder = some .be → s.grant = none → s.work = .survey n found →
    s.mode = .recovering → n < s.nseg →
    let r := s.slot n 0
    let live := r.passes = true ∧ r.isKind .header = true ∧ genField r.w0 = s.gen ∧ slotField r.w0 = 0 ∧
      r.w1 = BitVec.ofNat 32 n
    ∀ kept : List LiveSeg,
      (live → kept = found ++ [⟨n, ctxField r.w0, srcField r.w0, idxField r.w0, seqField r.w3⟩]) →
      (¬ live → kept = found) →
      (n + 1 < s.nseg →
        exec (.surveyStep .toEnd) s = .next ({ s.freed .be with work := .survey (n + 1) kept }.arbitrate)) ∧
      (n + 1 = s.nseg →
        ∃ t, exec (.surveyStep .toEnd) s = .next t ∧ t.mem = s.mem ∧ t.claims = s.claims ∧ t.lastHolder = .be ∧
          t.pool = (List.range s.nseg).filter (fun k => decide (∀ x ∈ kept, x.seg ≠ k)) ∧
          (∀ c, (∀ x ∈ kept, x.ctx ≠ c) → t.ctx c = s.ctx c) ∧
          (∀ c x, (groupOf kept c).head? = some x →
            let g := groupOf kept c
            ((∀ y ∈ g, y.src = x.src ∧ y.seq = x.seq) ∧ (∀ k y, g[k]? = some y → y.idx = x.idx + k) →
              t.ctx c = s.ctx c) ∧
            (¬ ((∀ y ∈ g, y.src = x.src ∧ y.seq = x.seq) ∧ (∀ k y, g[k]? = some y → y.idx = x.idx + k)) →
              t.ctx c = .active (.faulted .recovery ⟨.chain, .recovery, none⟩)
                ⟨x.src, x.seq, g.map (fun y => ⟨y.seg, y.idx⟩), 15, true, 0, 0, false⟩)) ∧
          (∀ whole : CtxNum → Bool,
            (∀ c, whole c = true ↔ ∃ x, (groupOf kept c).head? = some x ∧
              (∀ y ∈ groupOf kept c, y.src = x.src ∧ y.seq = x.seq) ∧
              (∀ k y, (groupOf kept c)[k]? = some y → y.idx = x.idx + k)) →
            let all : List CtxNum := [0, 1, 2, 3, 4, 5, 6, 7]
            let fault (u : State) (c : CtxNum) : State :=
              match groupOf kept c with
              | [] => u
              | x :: rest =>
                (u.setCtx c (.active (.faulted .recovery ⟨.chain, .recovery, none⟩)
                  ⟨x.src, x.seq, (x :: rest).map (fun y => ⟨y.seg, y.idx⟩), 15, true, 0, 0, false⟩)).raise
                  .faulted (some c) (some x.src) (some 6#8) 0#16 none
            let faulted : State :=
              (all.filter (fun c => !(groupOf kept c).isEmpty && !whole c)).foldl fault
                { s.freed .be with pool := (List.range s.nseg).filter (fun k => decide (∀ x ∈ kept, x.seg ≠ k)) }
            let v : Recovery := ⟨kept, all.filter whole, [], 0, 0⟩
            (all.filter whole ≠ [] → t = { faulted with work := .judge v none }.arbitrate) ∧
            (all.filter whole = [] → t = (faulted.queueJobs v).arbitrate)))

/-- JUDGEMENT_FINAL_SEGMENT (R148, R150): the first slot of the final segment that ends the scan decides.  A valid
marker in slot `k` ends the epoch, with the marker's slot as fill and its count as PRE records written; with none, the
records end before the first slot that does not belong or that is a torn tail, and an epoch in one whole segment is set
ROLLING_BACK with the records counted; of a longer whole chain the other segments are read next, and the final
segment's fill and count of RESTORED records are kept for their end.  An epoch without chain index 0, and a slot
15 that ends nothing, fault CHAIN as R147 states, with its FAULTED event.  A judged chain is followed by the next, or by
the queueing of the jobs, and a context found with a marker is noted (R152).  Nothing is written; the effect is at the
end of the grant (log 27), and the count and the discard flag are read as in log 19. -/
def Obligations.FinalSegmentIsJudged : Prop :=
  ∀ (s : State) (v : Recovery) (c : CtxNum) (more : List CtxNum) (x first : LiveSeg) (k : Nat),
    s.holder = some .be → s.grant = none → s.work = .judge v none → s.mode = .recovering → v.toJudge = c :: more →
    (groupOf v.found c).getLast? = some x → (groupOf v.found c).head? = some first → 1 ≤ k → k ≤ 15 →
    let g := groupOf v.found c
    let chain : List ChainEntry := g.map (fun y => ⟨y.seg, y.idx⟩)
    let r (j : Nat) := s.slot x.seg j
    let mine (j : Nat) := (r j).belongs ⟨s.gen, x.ctx, x.src, x.idx, x.seq⟩ j
    let marker (j : Nat) := mine j = true ∧ ((r j).isKind .commit = true ∨ (r j).isKind .abort = true) ∧ (r j).passes = true
    let torn (j : Nat) := mine j = true ∧ (r j).passes = false ∧ (j = 15 ∨ mine (j + 1) = false)
    let next (w : Recovery) (u : State) : State :=
      if more = [] then u.queueJobs { w with toJudge := [] } else { u with work := .judge { w with toJudge := more } none }
    let judged (w : Recovery) (y : Context) : State := (next w ((s.freed .be).setCtx c y)).arbitrate
    let ended (p : Phase) (restored : Nat) : Context :=
      .active p ⟨x.src, x.seq, chain, k, true, countField (r k).w1, restored, true⟩
    let broken : Context :=
      .active (.faulted .recovery ⟨.chain, .recovery, none⟩) ⟨first.src, first.seq, chain, 15, true, 0, 0, false⟩
    let restored := ((List.range' 1 (k - 1)).filter (fun j => (r j).isKind .restored && (r j).passes)).length
    let fault : State :=
      (next v (((s.freed .be).setCtx c broken).raise .faulted (some c) (some first.src) (some 6#8) 0#16 none)).arbitrate
    (∀ j, 1 ≤ j → j < k → mine j = true ∧ ¬ marker j ∧ ¬ torn j) →
    ∃ t, exec (.judgementFinalSegment .toEnd) s = .next t ∧ t.mem = s.mem ∧ t.pool = s.pool ∧ t.claims = s.claims ∧
      (∀ d, d ≠ c → t.ctx d = s.ctx d) ∧
      (marker k →
        let w : Recovery := { v with marked := c :: v.marked }
        let n := countField (r k).w1
        ((r k).isKind .commit = true → t.ctx c = ended .committing 0 ∧ t = judged w (ended .committing 0)) ∧
        ((r k).isKind .abort = true →
          ((r k).w2 = 0#32 →
            t.ctx c = ended (.rollingBack .recovery) n ∧ t = judged w (ended (.rollingBack .recovery) n)) ∧
          ((r k).w2 = 1#32 → t.ctx c = ended .discarding n ∧ t = judged w (ended .discarding n)) ∧
          (t = judged w (ended (.rollingBack .recovery) n) ∨ t = judged w (ended .discarding n)))) ∧
      (mine k = false ∨ torn k →
        (first.idx ≠ 0 → t.ctx c = broken ∧ t = fault) ∧
        (first.idx = 0 → g.length = 1 →
          let y : Context := .active (.rollingBack .recovery) ⟨x.src, x.seq, chain, k, true, k - 1, restored, false⟩
          t.ctx c = y ∧ t = judged v y) ∧
        (first.idx = 0 → 2 ≤ g.length →
          t.ctx c = s.ctx c ∧
          t = { s.freed .be with work := .judge v (some ⟨k, restored, chain.dropLast, 0, 0⟩) }.arbitrate)) ∧
      (k = 15 → mine k = true → ¬ marker k → ¬ torn k → t.ctx c = broken ∧ t = fault)

/-- JUDGEMENT_SEGMENT (R149, R150): a slot of 1 to 14 that does not belong makes the context FAULTED with kind SHORT
at that slot; a COMMIT or ABORT record that belongs makes it FAULTED with kind CHAIN, as R147 states; when all fourteen
hold PRE or RESTORED records the judgement goes on, and after the last such segment the context is set ROLLING_BACK with
the records counted.  Each fault raises its FAULTED event, and the next chain follows.  After the last chain the jobs are
queued in ascending context number, an epoch without a marker with its newest counted record as resume position (R150),
and replay ends at once when there is none (R151).  Nothing is written; the effect is at the end of the grant (log
27). -/
def Obligations.OtherSegmentsAreJudged : Prop :=
  (∀ (s : State) (v : Recovery) (q : JudgeScan) (c : CtxNum) (more : List CtxNum) (y : ChainEntry)
    (rest : List ChainEntry) (x first : LiveSeg),
    s.holder = some .be → s.grant = none → s.work = .judge v (some q) → s.mode = .recovering → v.toJudge = c :: more →
    q.left = y :: rest → (groupOf v.found c).getLast? = some x → (groupOf v.found c).head? = some first →
    let chain : List ChainEntry := (groupOf v.found c).map (fun z => ⟨z.seg, z.idx⟩)
    let r (j : Nat) := s.slot y.seg j
    let mine (j : Nat) := (r j).belongs ⟨s.gen, x.ctx, x.src, y.idx, x.seq⟩ j
    let data (j : Nat) := mine j = true ∧ (r j).isKind .commit = false ∧ (r j).isKind .abort = false
    let restored (n : Nat) := ((List.range' 1 n).filter (fun j => (r j).isKind .restored && (r j).passes)).length
    let next (t : State) : State :=
      if more = [] then t.queueJobs { v with toJudge := [] } else { t with work := .judge { v with toJudge := more } none }
    (∀ k, 1 ≤ k → k ≤ 14 → (∀ j, 1 ≤ j → j < k → data j) →
      (mine k = false →
        let e : Epoch := ⟨x.src, x.seq, chain, q.fill, true, q.pre + (k - 1), q.restored + restored (k - 1), false⟩
        exec (.judgementSegment .toEnd) s = .next ((next
          (((s.freed .be).setCtx c (.active (.faulted .recovery ⟨.short, .recovery, some ⟨y.seg, k⟩⟩) e)).raise .faulted
            (some c) (some x.src) (some 6#8) (BitVec.ofNat 16 (q.restored + restored (k - 1)))
            (some (s.slotAddr y.seg k 0)))).arbitrate)) ∧
      (mine k = true → ((r k).isKind .commit = true ∨ (r k).isKind .abort = true) →
        let e : Epoch := ⟨first.src, first.seq, chain, 15, true, 0, 0, false⟩
        exec (.judgementSegment .toEnd) s = .next ((next
          (((s.freed .be).setCtx c (.active (.faulted .recovery ⟨.chain, .recovery, none⟩) e)).raise .faulted (some c)
            (some first.src) (some 6#8) 0#16 none)).arbitrate))) ∧
    ((∀ j, 1 ≤ j → j ≤ 14 → data j) →
      (rest ≠ [] → exec (.judgementSegment .toEnd) s =
        .next ({ s.freed .be with work := .judge v (some ⟨q.fill, q.finalRestored, rest, q.pre + 14,
          q.restored + restored 14⟩) }.arbitrate)) ∧
      (rest = [] → exec (.judgementSegment .toEnd) s = .next ((next
        ((s.freed .be).setCtx c (.active (.rollingBack .recovery) ⟨x.src, x.seq, chain, q.fill, true,
          q.pre + 14 + (q.fill - 1), q.restored + restored 14 + q.finalRestored, false⟩))).arbitrate)))) ∧
  (∀ (t : State) (v : Recovery), ∃ job : CtxNum → Option QueueEntry,
    (∀ d, (∃ e, t.ctx d = .active .committing e ∨ t.ctx d = .active .discarding e) → job d = some ⟨d, none⟩) ∧
    (∀ d k e, t.ctx d = .active (.rollingBack k) e → e.markerWritten = true → job d = some ⟨d, none⟩) ∧
    (∀ d k e front z, t.ctx d = .active (.rollingBack k) e → e.markerWritten = false → e.chain = front ++ [z] →
      (2 ≤ e.fill → job d = some ⟨d, some ⟨z.seg, e.fill - 1⟩⟩) ∧
      (e.fill ≤ 1 → front = [] → job d = some ⟨d, none⟩) ∧
      (∀ older u, e.fill ≤ 1 → front = older ++ [u] → job d = some ⟨d, some ⟨u.seg, 14⟩⟩)) ∧
    (∀ d, (t.ctx d).hasJob = false → job d = none) ∧
    let queued : State := { t with
      queue := t.queue ++ ([0, 1, 2, 3, 4, 5, 6, 7] : List CtxNum).filterMap job, work := .replay v }
    (queued.queue ≠ [] ∨ t.mode ≠ .recovering → t.queueJobs v = queued) ∧
    (queued.queue = [] → t.mode = .recovering → t.queueJobs v = queued.finishReplay v))

/-- CLAIM_REBUILD (R56, R152): each PRE record of the segment that belongs and passes its check has its word claimed, by
a claim that was there or by a new one of this context, unless the table is full or the context holds QCLM claims; the
faulty record, at the context's fault position, is not taken (R18); no claim is lost, no other is made, and nothing is written.  Belonging is judged against the FAULTED context's epoch, and
for kind CHAIN against the segment's own header.  The last such grant ends recovery: the mode is RUN and RECOVERY_DONE is
raised in it.  The end of replay (R152): the epoch counter is one more than the largest sequence of a live header, or 0,
and the rebuild of the FAULTED contexts begins, or recovery ends at once.  The effect is at the end of the grant (log
27), the word of a record is read as in log 19, a word in the journal window is claimed as any other (log 29), and a
slot that does not belong ends nothing (log 33). -/
def Obligations.RebuildClaimsRecords : Prop :=
  (∀ (s : State) (v : Recovery) (c : CtxNum) (x : ChainEntry) (rest : List (CtxNum × ChainEntry)) (k : Cause)
    (f : FaultInfo) (e : Epoch) (own : Identity),
    s.holder = some .be → s.grant = none → s.mode = .recovering → s.work = .rebuild v ((c, x) :: rest) →
    s.ctx c = .active (.faulted k f) e →
    ((f.kind ≠ .chain ∧ own = ⟨s.gen, c, e.source, x.idx, e.seq⟩) ∨
      (f.kind = .chain ∧ ∃ y, v.found.find? (fun y => y.seg == x.seg) = some y ∧
        own = ⟨s.gen, y.ctx, y.src, y.idx, y.seq⟩)) →
    let r (j : Nat) := s.slot x.seg j
    let taken (j : Nat) := (r j).belongs own j = true ∧ (r j).passes = true ∧ (r j).isKind .pre = true ∧
      f.pos ≠ some ⟨x.seg, j⟩
    let faulted (d : CtxNum) : Bool := match s.ctx d with | .active (.faulted _ _) _ => true | _ => false
    let done := State.raise { s with mode := .run } .recoveryDone none none
      (some (BitVec.ofNat 8 (([0, 1, 2, 3, 4, 5, 6, 7] : List CtxNum).filter faulted).length))
      (BitVec.ofNat 16 (256 * v.rolledBack + v.finished)) none
    ∃ t, exec (.claimRebuild .toEnd) s = .next t ∧ t.mem = s.mem ∧ t.contexts = s.contexts ∧ t.pool = s.pool ∧
      (∀ j, 1 ≤ j → j ≤ 14 → taken j →
        (∃ d, t.owner (addrField (r j).w1) = some d ∧ (s.owner (addrField (r j).w1) = none → d = c)) ∨
        512 ≤ t.claims.length ∨ s.limits.qclm ≤ t.claimsHeld c) ∧
      (∀ y ∈ s.claims, y ∈ t.claims) ∧
      (∀ y ∈ t.claims, y ∈ s.claims ∨ (y.owner = c ∧ ∃ j, 1 ≤ j ∧ j ≤ 14 ∧ taken j ∧ y.addr = addrField (r j).w1)) ∧
      (rest = [] → t.mode = .run ∧ t.work = .idle ∧ t.events = done.events ∧ t.eventSeq = done.eventSeq ∧
        t.lostEvents = done.lostEvents) ∧
      (rest ≠ [] → t.mode = .recovering ∧ t.work = .rebuild v rest ∧ t.events = s.events)) ∧
  (∀ (s : State) (v : Recovery) (q : BitVec 16),
    (v.found = [] → q = 0#16) →
    (∀ z ∈ v.found, (∀ y ∈ v.found, y.seq.toNat ≤ z.seq.toNat) → q = z.seq + 1#16) →
    let all : List CtxNum := [0, 1, 2, 3, 4, 5, 6, 7]
    let faulted (d : CtxNum) : Bool := match s.ctx d with | .active (.faulted _ _) _ => true | _ => false
    let left : List (CtxNum × ChainEntry) := all.flatMap fun d =>
      match s.ctx d with | .active (.faulted _ _) e => e.chain.map (fun y => (d, y)) | _ => []
    (left ≠ [] → s.finishReplay v = { s with epochSeq := q, work := .rebuild v left }) ∧
    (left = [] → s.finishReplay v =
      State.raise { s with epochSeq := q, mode := .run, work := .idle } .recoveryDone none none
        (some (BitVec.ofNat 8 (all.filter faulted).length)) (BitVec.ofNat 16 (256 * v.rolledBack + v.finished)) none))

/-! ### Power failure, reset and FROZEN -/

/-- PFAIL_ASSERTED and PFAIL_DEASSERTED (R72, R141): the mode becomes FROZEN; an access held or waiting for a grant is
refused FROZEN at once, and one in a grant stays; when the mode is FROZEN already nothing more happens, and when PFAIL#
rises the mode stays.  A port given to HP or BE is a grant in progress, also when its start step has not been carried
yet: PFAIL# finds it as after that start step, and when that step ends the grant, the port stays free (R76, R77, log 31);
so a read that was given the port ends DONE in FROZEN.  A given arming grant that has not begun its read ends without it
(R119, log 31).  In FROZEN no grant starts (R77, R119): whatever comes before the next reset, with no grant in progress
the port and memory stay as they are; a grant in progress ends with its requester as last holder; and the mode stays
FROZEN (also when that grant is the last of a format or a recovery, log 17). -/
def Obligations.PowerFailureFreezes : Prop :=
  (∀ s : State, s.inReset = false →
    exec .pfailDeasserted s = .next { s with pfail := false } ∧
    (s.mode = .frozen → exec .pfailAsserted s = .next { s with pfail := true }) ∧
    (s.mode ≠ .frozen →
      (∀ kept : State,
        ((s.grant ≠ none ∨ s.holder = none) ∧ kept = { s with pfail := true, mode := .frozen }) ∨
          (s.grant = none ∧ s.holder = some .ga ∧
            kept = { s with pfail := true, mode := .frozen, holder := none, lastHolder := .ga }) →
        (s.access = none ∨ (s.holder = some .hp ∧ ∃ a q l, s.access = some ⟨a, .toMemory q, l⟩) →
          exec .pfailAsserted s = .next kept) ∧
        (∀ a z l, s.access = some ⟨a, z, l⟩ → ((∃ k, z = .held k) ∨ s.holder ≠ some .hp) →
          exec .pfailAsserted s = .next { kept with
            access := none, herr := true, hd := if a.write then s.hd else 0#32,
            lastEnding := some (.refused .frozen) })) ∧
      (∀ (row : Extent → Instr) (t : State),
        row ∈ [Instr.forwardedRead, .forwardedWrite, .journalledWriteGrant, .commitMarker, .restoreStep, .abortMarker,
          .discardMarker, .freeingStep, .formatStep, .surveyStep, .judgementFinalSegment, .judgementSegment,
          .claimRebuild] →
        s.grant = none → exec (row (.accesses 0)) s = .next t → t ≠ s →
        exec .pfailAsserted s = exec .pfailAsserted { t with holder := if t.grant = none then none else t.holder }) ∧
      (∀ a l, s.holder = some .hp → s.grant = none → s.access = some ⟨a, .toMemory .forwarded, l⟩ → a.write = false →
        s.classify a = .send .forwarded →
        ∃ t, exec .pfailAsserted s = .next t ∧ exec (.forwardedRead .toEnd) t =
          .next { s.freed .hp with
            pfail := true, mode := .frozen, access := none, herr := false, lastEnding := some .done,
            hd := s.word a.addr }))) ∧
  (∀ (s t : State), s.mode = .frozen → s.pending.head? ≠ some .reset → step s = .next t →
    t.mode = .frozen ∧
    (s.grant = none → t.holder = s.holder ∧ t.lastHolder = s.lastHolder ∧ t.mem = s.mem ∧ t.grant = none) ∧
    (s.holder = none → t.holder = none ∧ t.lastHolder = s.lastHolder ∧ t.mem = s.mem ∧ t.grant = s.grant) ∧
    (∀ r, s.holder = some r → t.holder = some r ∨ (t.holder = none ∧ t.lastHolder = r)))

/-- Reset (R140): every on-chip state returns to its reset value and memory is not touched; while the reset is in force
no access, no frame and no grant takes effect; and it ends in FROZEN when PFAIL# is asserted, in GATED when it is
not. -/
def Obligations.ResetReturnsToGated : Prop :=
  ∀ s : State, ∃ t, exec .reset s = .next t ∧
    t.mem = s.mem ∧ t.mode = .gated ∧ t.jbase = 0#22 ∧ t.nseg = 0 ∧ t.gen = 0#8 ∧ t.pool = [] ∧ t.claims = [] ∧
    t.queue = [] ∧ t.job = none ∧ t.grant = none ∧ t.events = [] ∧ t.epochSeq = 0#16 ∧ t.access = none ∧
    t.herr = false ∧ t.holder = none ∧ t.lastHolder = .ga ∧ t.work = .idle ∧
    t.limits = ⟨16, 64, .refuse, 200, 0, 0, 50⟩ ∧ (∀ c, t.ctx c = .free) ∧ (∀ i, t.source i = ⟨none, false⟩) ∧
    (∀ i, t.region i = ⟨false, .pass, 0#22, 0#22⟩) ∧
    (∀ i, t.guard i = ⟨false, 0#22, 0#32, 0#32, .onBreak, .note, some 0, .unarmed⟩) ∧
    (∀ i g, t.counter i g = ⟨0#8, false⟩) ∧ (∀ g, t.settings g = ⟨255#8, .saturate, 0#3⟩) ∧
    t.lastResponse = [0x89#8] ∧ t.shortFrames = 0#8 ∧ t.eventMask = 0x03FE#16 ∧ t.eventSeq = 0#8 ∧
    t.lostEvents = 0#8 ∧ t.stat0 = 0 ∧ t.stat1 = 5 ∧
    (∀ c : Instr, c ≠ .reset → c ≠ .resetEnd → c ≠ .pfailAsserted → c ≠ .pfailDeasserted → exec c t = .next t) ∧
    (t.pfail = true → exec .resetEnd t = .next { t with inReset := false, mode := .frozen }) ∧
    (t.pfail = false → exec .resetEnd t = .next { t with inReset := false })

/-- The management port in FROZEN (R142): the ten reading commands are answered as in any other mode (GET_STATUS with
its own mode byte), and every other command is refused WRONG_MODE and changes no state. -/
def Obligations.FrozenAnswersReadsAlone : Prop :=
  ∀ (s : State) (c : Instr), s.inReset = false → s.mode = .frozen → c.isFrame = true →
    (c.isAnsweredInFrozen = false → exec c s = .next (s.replied [0x82#8])) ∧
    (c.isAnsweredInFrozen = true → ∀ m t, exec c s = .next t →
      ∃ u, exec c { s with mode := m } = .next u ∧
        u = { t with mode := m, sdo := u.sdo, lastResponse := u.lastResponse } ∧
        u.sdo.head? = t.sdo.head? ∧ u.sdo.length = t.sdo.length ∧
        (c ≠ .getStatus → u.sdo = t.sdo ∧ u.lastResponse = t.lastResponse))

/-! ### The memory port -/

/-- Who waits for the port, and who is given it (R75, R76): a port that is free goes to the first waiting requester
after the last holder in the order HP, BE, GA, HP; a port that is held stays with its holder; and nothing but the
holder changes. -/
def Obligations.ArbiterRotates : Prop :=
  ∀ s : State,
    (s.waits .hp = true ↔ s.holder ≠ some .hp ∧ ∃ a r l, s.access = some ⟨a, .toMemory r, l⟩) ∧
    (s.waits .be = true ↔ s.holder ≠ some .be ∧
      (((s.mode = .run ∨ s.mode = .recovering) ∧ s.queue ≠ []) ∨
        ((s.mode = .formatting ∨ s.mode = .recovering) ∧ s.work.hasStep = true))) ∧
    (s.waits .ga = true ↔ s.holder ≠ some .ga ∧ ∃ i, (s.guard i).state = .arming) ∧
    (s.holder ≠ none → s.arbitrate = s) ∧
    ((∀ r, s.waits r = false) → s.arbitrate = s) ∧
    (∀ r, s.holder = none → s.mode ≠ .frozen → s.inReset = false → s.waits r = true →
      (let later (x : Requester) : Nat :=
        match s.lastHolder, x with
        | .hp, .be => 0 | .hp, .ga => 1 | .hp, .hp => 2
        | .be, .ga => 0 | .be, .hp => 1 | .be, .be => 2
        | .ga, .hp => 0 | .ga, .be => 1 | .ga, .ga => 2
       ∀ x, s.waits x = true → x ≠ r → later r < later x) →
      s.arbitrate = { s with holder := some r })

/-- Only the port's grants touch memory (R74): every other command leaves every byte as it was. -/
def Obligations.OnlyGrantsTouchMemory : Prop :=
  ∀ (c : Instr) (s t : State), c.isGrant = false → exec c s = .next t → t.mem = s.mem

/-! ### Laws of every step -/

/-- The mode changes only on the events listed for it (R139). -/
def Obligations.ModeChangesAsListed : Prop :=
  ∀ (c : Instr) (s t : State), s.BindingsProper → exec c s = .next t → t.mode ≠ s.mode →
    (c = .format ∧ s.mode = .gated ∧ t.mode = .formatting) ∨ (c = .recover ∧ s.mode = .gated ∧ t.mode = .recovering) ∨
    (c = .gate ∧ s.mode = .run ∧ t.mode = .gated) ∨ (c = .pfailAsserted ∧ t.mode = .frozen) ∨
    (c = .reset ∧ t.mode = .gated) ∨ (c = .resetEnd ∧ s.inReset = true ∧ s.pfail = true ∧ t.mode = .frozen) ∨
    (c.isGrant = true ∧ (s.mode = .formatting ∨ s.mode = .recovering) ∧ t.mode = .run)

/-- Every step keeps memory in its canonical form, the event queue within 32 records (R162), and the Claim Table within
512 claims with no word address twice (R43). -/
def Obligations.StepKeepsTablesProper : Prop :=
  (∀ s t : State, s.MemoryCanonical → step s = .next t → t.MemoryCanonical) ∧
  (∀ s t : State, step s = .next t →
    (s.EventsBounded → t.EventsBounded) ∧ (s.ClaimsProper → t.ClaimsProper))

/-- Every step keeps the law of the bindings (R4) and the law of the engine queue (R94, 1.2): the two hold together. -/
def Obligations.StepKeepsBindingsAndQueue : Prop :=
  ∀ s t : State, s.BindingsProper → s.QueueProper → step s = .next t → t.BindingsProper ∧ t.QueueProper

/-- No step loses or doubles a segment (R38): outside format and recovery, and outside GATED, the pool and the chains
together hold the same segment numbers after any step but a reset. -/
def Obligations.StepConservesSegments : Prop :=
  ∀ s t : State, s.work = .idle → s.mode ≠ .gated → s.pending.head? ≠ some .reset → step s = .next t →
    (t.pool ++ t.chainSegs).Perm (s.pool ++ s.chainSegs)

/-- The reset state meets every law that the steps keep. -/
def Obligations.ResetStateIsLawful : Prop :=
  State.reset.MemoryCanonical ∧ State.reset.EventsBounded ∧ State.reset.ClaimsProper ∧ State.reset.BindingsProper ∧
    State.reset.QueueProper
end

