-- ==== Sys2Proof/Laws/State.lean ====
section
/-! SUPPORT. One lemma per field for each plain update of State, so that no proof unfolds a record update. -/

namespace Sys2Proof.Machine

variable (s : State)

/-! ### setCtx -/

@[simp] theorem State.setCtx_pending (c : CtxNum) (x : Context) : (s.setCtx c x).pending = s.pending := rfl
@[simp] theorem State.setCtx_mem (c : CtxNum) (x : Context) : (s.setCtx c x).mem = s.mem := rfl
@[simp] theorem State.setCtx_pfail (c : CtxNum) (x : Context) : (s.setCtx c x).pfail = s.pfail := rfl
@[simp] theorem State.setCtx_inReset (c : CtxNum) (x : Context) : (s.setCtx c x).inReset = s.inReset := rfl
@[simp] theorem State.setCtx_herr (c : CtxNum) (x : Context) : (s.setCtx c x).herr = s.herr := rfl
@[simp] theorem State.setCtx_hd (c : CtxNum) (x : Context) : (s.setCtx c x).hd = s.hd := rfl
@[simp] theorem State.setCtx_lastEnding (c : CtxNum) (x : Context) : (s.setCtx c x).lastEnding = s.lastEnding := rfl
@[simp] theorem State.setCtx_mode (c : CtxNum) (x : Context) : (s.setCtx c x).mode = s.mode := rfl
@[simp] theorem State.setCtx_work (c : CtxNum) (x : Context) : (s.setCtx c x).work = s.work := rfl
@[simp] theorem State.setCtx_jbase (c : CtxNum) (x : Context) : (s.setCtx c x).jbase = s.jbase := rfl
@[simp] theorem State.setCtx_nseg (c : CtxNum) (x : Context) : (s.setCtx c x).nseg = s.nseg := rfl
@[simp] theorem State.setCtx_gen (c : CtxNum) (x : Context) : (s.setCtx c x).gen = s.gen := rfl
@[simp] theorem State.setCtx_pool (c : CtxNum) (x : Context) : (s.setCtx c x).pool = s.pool := rfl
@[simp] theorem State.setCtx_limits (c : CtxNum) (x : Context) : (s.setCtx c x).limits = s.limits := rfl
@[simp] theorem State.setCtx_contexts (c : CtxNum) (x : Context) : (s.setCtx c x).contexts = s.contexts.set c x := rfl
@[simp] theorem State.setCtx_sources (c : CtxNum) (x : Context) : (s.setCtx c x).sources = s.sources := rfl
@[simp] theorem State.setCtx_epochSeq (c : CtxNum) (x : Context) : (s.setCtx c x).epochSeq = s.epochSeq := rfl
@[simp] theorem State.setCtx_claims (c : CtxNum) (x : Context) : (s.setCtx c x).claims = s.claims := rfl
@[simp] theorem State.setCtx_regions (c : CtxNum) (x : Context) : (s.setCtx c x).regions = s.regions := rfl
@[simp] theorem State.setCtx_access (c : CtxNum) (x : Context) : (s.setCtx c x).access = s.access := rfl
@[simp] theorem State.setCtx_holder (c : CtxNum) (x : Context) : (s.setCtx c x).holder = s.holder := rfl
@[simp] theorem State.setCtx_lastHolder (c : CtxNum) (x : Context) : (s.setCtx c x).lastHolder = s.lastHolder := rfl
@[simp] theorem State.setCtx_grant (c : CtxNum) (x : Context) : (s.setCtx c x).grant = s.grant := rfl
@[simp] theorem State.setCtx_queue (c : CtxNum) (x : Context) : (s.setCtx c x).queue = s.queue := rfl
@[simp] theorem State.setCtx_job (c : CtxNum) (x : Context) : (s.setCtx c x).job = s.job := rfl
@[simp] theorem State.setCtx_guards (c : CtxNum) (x : Context) : (s.setCtx c x).guards = s.guards := rfl
@[simp] theorem State.setCtx_counters (c : CtxNum) (x : Context) : (s.setCtx c x).counters = s.counters := rfl
@[simp] theorem State.setCtx_groups (c : CtxNum) (x : Context) : (s.setCtx c x).groups = s.groups := rfl
@[simp] theorem State.setCtx_sdo (c : CtxNum) (x : Context) : (s.setCtx c x).sdo = s.sdo := rfl
@[simp] theorem State.setCtx_lastResponse (c : CtxNum) (x : Context) : (s.setCtx c x).lastResponse = s.lastResponse := rfl
@[simp] theorem State.setCtx_shortFrames (c : CtxNum) (x : Context) : (s.setCtx c x).shortFrames = s.shortFrames := rfl
@[simp] theorem State.setCtx_events (c : CtxNum) (x : Context) : (s.setCtx c x).events = s.events := rfl
@[simp] theorem State.setCtx_eventMask (c : CtxNum) (x : Context) : (s.setCtx c x).eventMask = s.eventMask := rfl
@[simp] theorem State.setCtx_eventSeq (c : CtxNum) (x : Context) : (s.setCtx c x).eventSeq = s.eventSeq := rfl
@[simp] theorem State.setCtx_lostEvents (c : CtxNum) (x : Context) : (s.setCtx c x).lostEvents = s.lostEvents := rfl
@[simp] theorem State.setCtx_stat0 (c : CtxNum) (x : Context) : (s.setCtx c x).stat0 = s.stat0 := rfl
@[simp] theorem State.setCtx_stat1 (c : CtxNum) (x : Context) : (s.setCtx c x).stat1 = s.stat1 := rfl
@[simp] theorem State.setCtx_choices (c : CtxNum) (x : Context) : (s.setCtx c x).choices = s.choices := rfl

/-! ### setSource -/

@[simp] theorem State.setSource_pending (i : SrcNum) (x : Source) : (s.setSource i x).pending = s.pending := rfl
@[simp] theorem State.setSource_mem (i : SrcNum) (x : Source) : (s.setSource i x).mem = s.mem := rfl
@[simp] theorem State.setSource_pfail (i : SrcNum) (x : Source) : (s.setSource i x).pfail = s.pfail := rfl
@[simp] theorem State.setSource_inReset (i : SrcNum) (x : Source) : (s.setSource i x).inReset = s.inReset := rfl
@[simp] theorem State.setSource_herr (i : SrcNum) (x : Source) : (s.setSource i x).herr = s.herr := rfl
@[simp] theorem State.setSource_hd (i : SrcNum) (x : Source) : (s.setSource i x).hd = s.hd := rfl
@[simp] theorem State.setSource_lastEnding (i : SrcNum) (x : Source) : (s.setSource i x).lastEnding = s.lastEnding := rfl
@[simp] theorem State.setSource_mode (i : SrcNum) (x : Source) : (s.setSource i x).mode = s.mode := rfl
@[simp] theorem State.setSource_work (i : SrcNum) (x : Source) : (s.setSource i x).work = s.work := rfl
@[simp] theorem State.setSource_jbase (i : SrcNum) (x : Source) : (s.setSource i x).jbase = s.jbase := rfl
@[simp] theorem State.setSource_nseg (i : SrcNum) (x : Source) : (s.setSource i x).nseg = s.nseg := rfl
@[simp] theorem State.setSource_gen (i : SrcNum) (x : Source) : (s.setSource i x).gen = s.gen := rfl
@[simp] theorem State.setSource_pool (i : SrcNum) (x : Source) : (s.setSource i x).pool = s.pool := rfl
@[simp] theorem State.setSource_limits (i : SrcNum) (x : Source) : (s.setSource i x).limits = s.limits := rfl
@[simp] theorem State.setSource_contexts (i : SrcNum) (x : Source) : (s.setSource i x).contexts = s.contexts := rfl
@[simp] theorem State.setSource_sources (i : SrcNum) (x : Source) : (s.setSource i x).sources = s.sources.set i x := rfl
@[simp] theorem State.setSource_epochSeq (i : SrcNum) (x : Source) : (s.setSource i x).epochSeq = s.epochSeq := rfl
@[simp] theorem State.setSource_claims (i : SrcNum) (x : Source) : (s.setSource i x).claims = s.claims := rfl
@[simp] theorem State.setSource_regions (i : SrcNum) (x : Source) : (s.setSource i x).regions = s.regions := rfl
@[simp] theorem State.setSource_access (i : SrcNum) (x : Source) : (s.setSource i x).access = s.access := rfl
@[simp] theorem State.setSource_holder (i : SrcNum) (x : Source) : (s.setSource i x).holder = s.holder := rfl
@[simp] theorem State.setSource_lastHolder (i : SrcNum) (x : Source) : (s.setSource i x).lastHolder = s.lastHolder := rfl
@[simp] theorem State.setSource_grant (i : SrcNum) (x : Source) : (s.setSource i x).grant = s.grant := rfl
@[simp] theorem State.setSource_queue (i : SrcNum) (x : Source) : (s.setSource i x).queue = s.queue := rfl
@[simp] theorem State.setSource_job (i : SrcNum) (x : Source) : (s.setSource i x).job = s.job := rfl
@[simp] theorem State.setSource_guards (i : SrcNum) (x : Source) : (s.setSource i x).guards = s.guards := rfl
@[simp] theorem State.setSource_counters (i : SrcNum) (x : Source) : (s.setSource i x).counters = s.counters := rfl
@[simp] theorem State.setSource_groups (i : SrcNum) (x : Source) : (s.setSource i x).groups = s.groups := rfl
@[simp] theorem State.setSource_sdo (i : SrcNum) (x : Source) : (s.setSource i x).sdo = s.sdo := rfl
@[simp] theorem State.setSource_lastResponse (i : SrcNum) (x : Source) : (s.setSource i x).lastResponse = s.lastResponse := rfl
@[simp] theorem State.setSource_shortFrames (i : SrcNum) (x : Source) : (s.setSource i x).shortFrames = s.shortFrames := rfl
@[simp] theorem State.setSource_events (i : SrcNum) (x : Source) : (s.setSource i x).events = s.events := rfl
@[simp] theorem State.setSource_eventMask (i : SrcNum) (x : Source) : (s.setSource i x).eventMask = s.eventMask := rfl
@[simp] theorem State.setSource_eventSeq (i : SrcNum) (x : Source) : (s.setSource i x).eventSeq = s.eventSeq := rfl
@[simp] theorem State.setSource_lostEvents (i : SrcNum) (x : Source) : (s.setSource i x).lostEvents = s.lostEvents := rfl
@[simp] theorem State.setSource_stat0 (i : SrcNum) (x : Source) : (s.setSource i x).stat0 = s.stat0 := rfl
@[simp] theorem State.setSource_stat1 (i : SrcNum) (x : Source) : (s.setSource i x).stat1 = s.stat1 := rfl
@[simp] theorem State.setSource_choices (i : SrcNum) (x : Source) : (s.setSource i x).choices = s.choices := rfl

/-! ### bind -/

@[simp] theorem State.bind_pending (i : SrcNum) (b : Option CtxNum) : (s.bind i b).pending = s.pending := rfl
@[simp] theorem State.bind_mem (i : SrcNum) (b : Option CtxNum) : (s.bind i b).mem = s.mem := rfl
@[simp] theorem State.bind_pfail (i : SrcNum) (b : Option CtxNum) : (s.bind i b).pfail = s.pfail := rfl
@[simp] theorem State.bind_inReset (i : SrcNum) (b : Option CtxNum) : (s.bind i b).inReset = s.inReset := rfl
@[simp] theorem State.bind_herr (i : SrcNum) (b : Option CtxNum) : (s.bind i b).herr = s.herr := rfl
@[simp] theorem State.bind_hd (i : SrcNum) (b : Option CtxNum) : (s.bind i b).hd = s.hd := rfl
@[simp] theorem State.bind_lastEnding (i : SrcNum) (b : Option CtxNum) : (s.bind i b).lastEnding = s.lastEnding := rfl
@[simp] theorem State.bind_mode (i : SrcNum) (b : Option CtxNum) : (s.bind i b).mode = s.mode := rfl
@[simp] theorem State.bind_work (i : SrcNum) (b : Option CtxNum) : (s.bind i b).work = s.work := rfl
@[simp] theorem State.bind_jbase (i : SrcNum) (b : Option CtxNum) : (s.bind i b).jbase = s.jbase := rfl
@[simp] theorem State.bind_nseg (i : SrcNum) (b : Option CtxNum) : (s.bind i b).nseg = s.nseg := rfl
@[simp] theorem State.bind_gen (i : SrcNum) (b : Option CtxNum) : (s.bind i b).gen = s.gen := rfl
@[simp] theorem State.bind_pool (i : SrcNum) (b : Option CtxNum) : (s.bind i b).pool = s.pool := rfl
@[simp] theorem State.bind_limits (i : SrcNum) (b : Option CtxNum) : (s.bind i b).limits = s.limits := rfl
@[simp] theorem State.bind_contexts (i : SrcNum) (b : Option CtxNum) : (s.bind i b).contexts = s.contexts := rfl
@[simp] theorem State.bind_sources (i : SrcNum) (b : Option CtxNum) : (s.bind i b).sources = s.sources.set i ⟨b, (s.source i).fenced⟩ := rfl
@[simp] theorem State.bind_epochSeq (i : SrcNum) (b : Option CtxNum) : (s.bind i b).epochSeq = s.epochSeq := rfl
@[simp] theorem State.bind_claims (i : SrcNum) (b : Option CtxNum) : (s.bind i b).claims = s.claims := rfl
@[simp] theorem State.bind_regions (i : SrcNum) (b : Option CtxNum) : (s.bind i b).regions = s.regions := rfl
@[simp] theorem State.bind_access (i : SrcNum) (b : Option CtxNum) : (s.bind i b).access = s.access := rfl
@[simp] theorem State.bind_holder (i : SrcNum) (b : Option CtxNum) : (s.bind i b).holder = s.holder := rfl
@[simp] theorem State.bind_lastHolder (i : SrcNum) (b : Option CtxNum) : (s.bind i b).lastHolder = s.lastHolder := rfl
@[simp] theorem State.bind_grant (i : SrcNum) (b : Option CtxNum) : (s.bind i b).grant = s.grant := rfl
@[simp] theorem State.bind_queue (i : SrcNum) (b : Option CtxNum) : (s.bind i b).queue = s.queue := rfl
@[simp] theorem State.bind_job (i : SrcNum) (b : Option CtxNum) : (s.bind i b).job = s.job := rfl
@[simp] theorem State.bind_guards (i : SrcNum) (b : Option CtxNum) : (s.bind i b).guards = s.guards := rfl
@[simp] theorem State.bind_counters (i : SrcNum) (b : Option CtxNum) : (s.bind i b).counters = s.counters := rfl
@[simp] theorem State.bind_groups (i : SrcNum) (b : Option CtxNum) : (s.bind i b).groups = s.groups := rfl
@[simp] theorem State.bind_sdo (i : SrcNum) (b : Option CtxNum) : (s.bind i b).sdo = s.sdo := rfl
@[simp] theorem State.bind_lastResponse (i : SrcNum) (b : Option CtxNum) : (s.bind i b).lastResponse = s.lastResponse := rfl
@[simp] theorem State.bind_shortFrames (i : SrcNum) (b : Option CtxNum) : (s.bind i b).shortFrames = s.shortFrames := rfl
@[simp] theorem State.bind_events (i : SrcNum) (b : Option CtxNum) : (s.bind i b).events = s.events := rfl
@[simp] theorem State.bind_eventMask (i : SrcNum) (b : Option CtxNum) : (s.bind i b).eventMask = s.eventMask := rfl
@[simp] theorem State.bind_eventSeq (i : SrcNum) (b : Option CtxNum) : (s.bind i b).eventSeq = s.eventSeq := rfl
@[simp] theorem State.bind_lostEvents (i : SrcNum) (b : Option CtxNum) : (s.bind i b).lostEvents = s.lostEvents := rfl
@[simp] theorem State.bind_stat0 (i : SrcNum) (b : Option CtxNum) : (s.bind i b).stat0 = s.stat0 := rfl
@[simp] theorem State.bind_stat1 (i : SrcNum) (b : Option CtxNum) : (s.bind i b).stat1 = s.stat1 := rfl
@[simp] theorem State.bind_choices (i : SrcNum) (b : Option CtxNum) : (s.bind i b).choices = s.choices := rfl

/-! ### setFence -/

@[simp] theorem State.setFence_pending (i : SrcNum) (f : Bool) : (s.setFence i f).pending = s.pending := rfl
@[simp] theorem State.setFence_mem (i : SrcNum) (f : Bool) : (s.setFence i f).mem = s.mem := rfl
@[simp] theorem State.setFence_pfail (i : SrcNum) (f : Bool) : (s.setFence i f).pfail = s.pfail := rfl
@[simp] theorem State.setFence_inReset (i : SrcNum) (f : Bool) : (s.setFence i f).inReset = s.inReset := rfl
@[simp] theorem State.setFence_herr (i : SrcNum) (f : Bool) : (s.setFence i f).herr = s.herr := rfl
@[simp] theorem State.setFence_hd (i : SrcNum) (f : Bool) : (s.setFence i f).hd = s.hd := rfl
@[simp] theorem State.setFence_lastEnding (i : SrcNum) (f : Bool) : (s.setFence i f).lastEnding = s.lastEnding := rfl
@[simp] theorem State.setFence_mode (i : SrcNum) (f : Bool) : (s.setFence i f).mode = s.mode := rfl
@[simp] theorem State.setFence_work (i : SrcNum) (f : Bool) : (s.setFence i f).work = s.work := rfl
@[simp] theorem State.setFence_jbase (i : SrcNum) (f : Bool) : (s.setFence i f).jbase = s.jbase := rfl
@[simp] theorem State.setFence_nseg (i : SrcNum) (f : Bool) : (s.setFence i f).nseg = s.nseg := rfl
@[simp] theorem State.setFence_gen (i : SrcNum) (f : Bool) : (s.setFence i f).gen = s.gen := rfl
@[simp] theorem State.setFence_pool (i : SrcNum) (f : Bool) : (s.setFence i f).pool = s.pool := rfl
@[simp] theorem State.setFence_limits (i : SrcNum) (f : Bool) : (s.setFence i f).limits = s.limits := rfl
@[simp] theorem State.setFence_contexts (i : SrcNum) (f : Bool) : (s.setFence i f).contexts = s.contexts := rfl
@[simp] theorem State.setFence_sources (i : SrcNum) (f : Bool) : (s.setFence i f).sources = s.sources.set i ⟨(s.source i).bound, f⟩ := rfl
@[simp] theorem State.setFence_epochSeq (i : SrcNum) (f : Bool) : (s.setFence i f).epochSeq = s.epochSeq := rfl
@[simp] theorem State.setFence_claims (i : SrcNum) (f : Bool) : (s.setFence i f).claims = s.claims := rfl
@[simp] theorem State.setFence_regions (i : SrcNum) (f : Bool) : (s.setFence i f).regions = s.regions := rfl
@[simp] theorem State.setFence_access (i : SrcNum) (f : Bool) : (s.setFence i f).access = s.access := rfl
@[simp] theorem State.setFence_holder (i : SrcNum) (f : Bool) : (s.setFence i f).holder = s.holder := rfl
@[simp] theorem State.setFence_lastHolder (i : SrcNum) (f : Bool) : (s.setFence i f).lastHolder = s.lastHolder := rfl
@[simp] theorem State.setFence_grant (i : SrcNum) (f : Bool) : (s.setFence i f).grant = s.grant := rfl
@[simp] theorem State.setFence_queue (i : SrcNum) (f : Bool) : (s.setFence i f).queue = s.queue := rfl
@[simp] theorem State.setFence_job (i : SrcNum) (f : Bool) : (s.setFence i f).job = s.job := rfl
@[simp] theorem State.setFence_guards (i : SrcNum) (f : Bool) : (s.setFence i f).guards = s.guards := rfl
@[simp] theorem State.setFence_counters (i : SrcNum) (f : Bool) : (s.setFence i f).counters = s.counters := rfl
@[simp] theorem State.setFence_groups (i : SrcNum) (f : Bool) : (s.setFence i f).groups = s.groups := rfl
@[simp] theorem State.setFence_sdo (i : SrcNum) (f : Bool) : (s.setFence i f).sdo = s.sdo := rfl
@[simp] theorem State.setFence_lastResponse (i : SrcNum) (f : Bool) : (s.setFence i f).lastResponse = s.lastResponse := rfl
@[simp] theorem State.setFence_shortFrames (i : SrcNum) (f : Bool) : (s.setFence i f).shortFrames = s.shortFrames := rfl
@[simp] theorem State.setFence_events (i : SrcNum) (f : Bool) : (s.setFence i f).events = s.events := rfl
@[simp] theorem State.setFence_eventMask (i : SrcNum) (f : Bool) : (s.setFence i f).eventMask = s.eventMask := rfl
@[simp] theorem State.setFence_eventSeq (i : SrcNum) (f : Bool) : (s.setFence i f).eventSeq = s.eventSeq := rfl
@[simp] theorem State.setFence_lostEvents (i : SrcNum) (f : Bool) : (s.setFence i f).lostEvents = s.lostEvents := rfl
@[simp] theorem State.setFence_stat0 (i : SrcNum) (f : Bool) : (s.setFence i f).stat0 = s.stat0 := rfl
@[simp] theorem State.setFence_stat1 (i : SrcNum) (f : Bool) : (s.setFence i f).stat1 = s.stat1 := rfl
@[simp] theorem State.setFence_choices (i : SrcNum) (f : Bool) : (s.setFence i f).choices = s.choices := rfl

/-! ### setGuard -/

@[simp] theorem State.setGuard_pending (i : Fin 8) (g : Guard) : (s.setGuard i g).pending = s.pending := rfl
@[simp] theorem State.setGuard_mem (i : Fin 8) (g : Guard) : (s.setGuard i g).mem = s.mem := rfl
@[simp] theorem State.setGuard_pfail (i : Fin 8) (g : Guard) : (s.setGuard i g).pfail = s.pfail := rfl
@[simp] theorem State.setGuard_inReset (i : Fin 8) (g : Guard) : (s.setGuard i g).inReset = s.inReset := rfl
@[simp] theorem State.setGuard_herr (i : Fin 8) (g : Guard) : (s.setGuard i g).herr = s.herr := rfl
@[simp] theorem State.setGuard_hd (i : Fin 8) (g : Guard) : (s.setGuard i g).hd = s.hd := rfl
@[simp] theorem State.setGuard_lastEnding (i : Fin 8) (g : Guard) : (s.setGuard i g).lastEnding = s.lastEnding := rfl
@[simp] theorem State.setGuard_mode (i : Fin 8) (g : Guard) : (s.setGuard i g).mode = s.mode := rfl
@[simp] theorem State.setGuard_work (i : Fin 8) (g : Guard) : (s.setGuard i g).work = s.work := rfl
@[simp] theorem State.setGuard_jbase (i : Fin 8) (g : Guard) : (s.setGuard i g).jbase = s.jbase := rfl
@[simp] theorem State.setGuard_nseg (i : Fin 8) (g : Guard) : (s.setGuard i g).nseg = s.nseg := rfl
@[simp] theorem State.setGuard_gen (i : Fin 8) (g : Guard) : (s.setGuard i g).gen = s.gen := rfl
@[simp] theorem State.setGuard_pool (i : Fin 8) (g : Guard) : (s.setGuard i g).pool = s.pool := rfl
@[simp] theorem State.setGuard_limits (i : Fin 8) (g : Guard) : (s.setGuard i g).limits = s.limits := rfl
@[simp] theorem State.setGuard_contexts (i : Fin 8) (g : Guard) : (s.setGuard i g).contexts = s.contexts := rfl
@[simp] theorem State.setGuard_sources (i : Fin 8) (g : Guard) : (s.setGuard i g).sources = s.sources := rfl
@[simp] theorem State.setGuard_epochSeq (i : Fin 8) (g : Guard) : (s.setGuard i g).epochSeq = s.epochSeq := rfl
@[simp] theorem State.setGuard_claims (i : Fin 8) (g : Guard) : (s.setGuard i g).claims = s.claims := rfl
@[simp] theorem State.setGuard_regions (i : Fin 8) (g : Guard) : (s.setGuard i g).regions = s.regions := rfl
@[simp] theorem State.setGuard_access (i : Fin 8) (g : Guard) : (s.setGuard i g).access = s.access := rfl
@[simp] theorem State.setGuard_holder (i : Fin 8) (g : Guard) : (s.setGuard i g).holder = s.holder := rfl
@[simp] theorem State.setGuard_lastHolder (i : Fin 8) (g : Guard) : (s.setGuard i g).lastHolder = s.lastHolder := rfl
@[simp] theorem State.setGuard_grant (i : Fin 8) (g : Guard) : (s.setGuard i g).grant = s.grant := rfl
@[simp] theorem State.setGuard_queue (i : Fin 8) (g : Guard) : (s.setGuard i g).queue = s.queue := rfl
@[simp] theorem State.setGuard_job (i : Fin 8) (g : Guard) : (s.setGuard i g).job = s.job := rfl
@[simp] theorem State.setGuard_guards (i : Fin 8) (g : Guard) : (s.setGuard i g).guards = s.guards.set i g := rfl
@[simp] theorem State.setGuard_counters (i : Fin 8) (g : Guard) : (s.setGuard i g).counters = s.counters := rfl
@[simp] theorem State.setGuard_groups (i : Fin 8) (g : Guard) : (s.setGuard i g).groups = s.groups := rfl
@[simp] theorem State.setGuard_sdo (i : Fin 8) (g : Guard) : (s.setGuard i g).sdo = s.sdo := rfl
@[simp] theorem State.setGuard_lastResponse (i : Fin 8) (g : Guard) : (s.setGuard i g).lastResponse = s.lastResponse := rfl
@[simp] theorem State.setGuard_shortFrames (i : Fin 8) (g : Guard) : (s.setGuard i g).shortFrames = s.shortFrames := rfl
@[simp] theorem State.setGuard_events (i : Fin 8) (g : Guard) : (s.setGuard i g).events = s.events := rfl
@[simp] theorem State.setGuard_eventMask (i : Fin 8) (g : Guard) : (s.setGuard i g).eventMask = s.eventMask := rfl
@[simp] theorem State.setGuard_eventSeq (i : Fin 8) (g : Guard) : (s.setGuard i g).eventSeq = s.eventSeq := rfl
@[simp] theorem State.setGuard_lostEvents (i : Fin 8) (g : Guard) : (s.setGuard i g).lostEvents = s.lostEvents := rfl
@[simp] theorem State.setGuard_stat0 (i : Fin 8) (g : Guard) : (s.setGuard i g).stat0 = s.stat0 := rfl
@[simp] theorem State.setGuard_stat1 (i : Fin 8) (g : Guard) : (s.setGuard i g).stat1 = s.stat1 := rfl
@[simp] theorem State.setGuard_choices (i : Fin 8) (g : Guard) : (s.setGuard i g).choices = s.choices := rfl

/-! ### setCounter -/

@[simp] theorem State.setCounter_pending (i : SrcNum) (g : Group) (x : Counter) : (s.setCounter i g x).pending = s.pending := rfl
@[simp] theorem State.setCounter_mem (i : SrcNum) (g : Group) (x : Counter) : (s.setCounter i g x).mem = s.mem := rfl
@[simp] theorem State.setCounter_pfail (i : SrcNum) (g : Group) (x : Counter) : (s.setCounter i g x).pfail = s.pfail := rfl
@[simp] theorem State.setCounter_inReset (i : SrcNum) (g : Group) (x : Counter) : (s.setCounter i g x).inReset = s.inReset := rfl
@[simp] theorem State.setCounter_herr (i : SrcNum) (g : Group) (x : Counter) : (s.setCounter i g x).herr = s.herr := rfl
@[simp] theorem State.setCounter_hd (i : SrcNum) (g : Group) (x : Counter) : (s.setCounter i g x).hd = s.hd := rfl
@[simp] theorem State.setCounter_lastEnding (i : SrcNum) (g : Group) (x : Counter) : (s.setCounter i g x).lastEnding = s.lastEnding := rfl
@[simp] theorem State.setCounter_mode (i : SrcNum) (g : Group) (x : Counter) : (s.setCounter i g x).mode = s.mode := rfl
@[simp] theorem State.setCounter_work (i : SrcNum) (g : Group) (x : Counter) : (s.setCounter i g x).work = s.work := rfl
@[simp] theorem State.setCounter_jbase (i : SrcNum) (g : Group) (x : Counter) : (s.setCounter i g x).jbase = s.jbase := rfl
@[simp] theorem State.setCounter_nseg (i : SrcNum) (g : Group) (x : Counter) : (s.setCounter i g x).nseg = s.nseg := rfl
@[simp] theorem State.setCounter_gen (i : SrcNum) (g : Group) (x : Counter) : (s.setCounter i g x).gen = s.gen := rfl
@[simp] theorem State.setCounter_pool (i : SrcNum) (g : Group) (x : Counter) : (s.setCounter i g x).pool = s.pool := rfl
@[simp] theorem State.setCounter_limits (i : SrcNum) (g : Group) (x : Counter) : (s.setCounter i g x).limits = s.limits := rfl
@[simp] theorem State.setCounter_contexts (i : SrcNum) (g : Group) (x : Counter) : (s.setCounter i g x).contexts = s.contexts := rfl
@[simp] theorem State.setCounter_sources (i : SrcNum) (g : Group) (x : Counter) : (s.setCounter i g x).sources = s.sources := rfl
@[simp] theorem State.setCounter_epochSeq (i : SrcNum) (g : Group) (x : Counter) : (s.setCounter i g x).epochSeq = s.epochSeq := rfl
@[simp] theorem State.setCounter_claims (i : SrcNum) (g : Group) (x : Counter) : (s.setCounter i g x).claims = s.claims := rfl
@[simp] theorem State.setCounter_regions (i : SrcNum) (g : Group) (x : Counter) : (s.setCounter i g x).regions = s.regions := rfl
@[simp] theorem State.setCounter_access (i : SrcNum) (g : Group) (x : Counter) : (s.setCounter i g x).access = s.access := rfl
@[simp] theorem State.setCounter_holder (i : SrcNum) (g : Group) (x : Counter) : (s.setCounter i g x).holder = s.holder := rfl
@[simp] theorem State.setCounter_lastHolder (i : SrcNum) (g : Group) (x : Counter) : (s.setCounter i g x).lastHolder = s.lastHolder := rfl
@[simp] theorem State.setCounter_grant (i : SrcNum) (g : Group) (x : Counter) : (s.setCounter i g x).grant = s.grant := rfl
@[simp] theorem State.setCounter_queue (i : SrcNum) (g : Group) (x : Counter) : (s.setCounter i g x).queue = s.queue := rfl
@[simp] theorem State.setCounter_job (i : SrcNum) (g : Group) (x : Counter) : (s.setCounter i g x).job = s.job := rfl
@[simp] theorem State.setCounter_guards (i : SrcNum) (g : Group) (x : Counter) : (s.setCounter i g x).guards = s.guards := rfl
@[simp] theorem State.setCounter_counters (i : SrcNum) (g : Group) (x : Counter) : (s.setCounter i g x).counters = s.counters.set i (s.counters[i].set g.index x) := rfl
@[simp] theorem State.setCounter_groups (i : SrcNum) (g : Group) (x : Counter) : (s.setCounter i g x).groups = s.groups := rfl
@[simp] theorem State.setCounter_sdo (i : SrcNum) (g : Group) (x : Counter) : (s.setCounter i g x).sdo = s.sdo := rfl
@[simp] theorem State.setCounter_lastResponse (i : SrcNum) (g : Group) (x : Counter) : (s.setCounter i g x).lastResponse = s.lastResponse := rfl
@[simp] theorem State.setCounter_shortFrames (i : SrcNum) (g : Group) (x : Counter) : (s.setCounter i g x).shortFrames = s.shortFrames := rfl
@[simp] theorem State.setCounter_events (i : SrcNum) (g : Group) (x : Counter) : (s.setCounter i g x).events = s.events := rfl
@[simp] theorem State.setCounter_eventMask (i : SrcNum) (g : Group) (x : Counter) : (s.setCounter i g x).eventMask = s.eventMask := rfl
@[simp] theorem State.setCounter_eventSeq (i : SrcNum) (g : Group) (x : Counter) : (s.setCounter i g x).eventSeq = s.eventSeq := rfl
@[simp] theorem State.setCounter_lostEvents (i : SrcNum) (g : Group) (x : Counter) : (s.setCounter i g x).lostEvents = s.lostEvents := rfl
@[simp] theorem State.setCounter_stat0 (i : SrcNum) (g : Group) (x : Counter) : (s.setCounter i g x).stat0 = s.stat0 := rfl
@[simp] theorem State.setCounter_stat1 (i : SrcNum) (g : Group) (x : Counter) : (s.setCounter i g x).stat1 = s.stat1 := rfl
@[simp] theorem State.setCounter_choices (i : SrcNum) (g : Group) (x : Counter) : (s.setCounter i g x).choices = s.choices := rfl

/-! ### setSettings -/

@[simp] theorem State.setSettings_pending (g : Group) (x : GroupSettings) : (s.setSettings g x).pending = s.pending := rfl
@[simp] theorem State.setSettings_mem (g : Group) (x : GroupSettings) : (s.setSettings g x).mem = s.mem := rfl
@[simp] theorem State.setSettings_pfail (g : Group) (x : GroupSettings) : (s.setSettings g x).pfail = s.pfail := rfl
@[simp] theorem State.setSettings_inReset (g : Group) (x : GroupSettings) : (s.setSettings g x).inReset = s.inReset := rfl
@[simp] theorem State.setSettings_herr (g : Group) (x : GroupSettings) : (s.setSettings g x).herr = s.herr := rfl
@[simp] theorem State.setSettings_hd (g : Group) (x : GroupSettings) : (s.setSettings g x).hd = s.hd := rfl
@[simp] theorem State.setSettings_lastEnding (g : Group) (x : GroupSettings) : (s.setSettings g x).lastEnding = s.lastEnding := rfl
@[simp] theorem State.setSettings_mode (g : Group) (x : GroupSettings) : (s.setSettings g x).mode = s.mode := rfl
@[simp] theorem State.setSettings_work (g : Group) (x : GroupSettings) : (s.setSettings g x).work = s.work := rfl
@[simp] theorem State.setSettings_jbase (g : Group) (x : GroupSettings) : (s.setSettings g x).jbase = s.jbase := rfl
@[simp] theorem State.setSettings_nseg (g : Group) (x : GroupSettings) : (s.setSettings g x).nseg = s.nseg := rfl
@[simp] theorem State.setSettings_gen (g : Group) (x : GroupSettings) : (s.setSettings g x).gen = s.gen := rfl
@[simp] theorem State.setSettings_pool (g : Group) (x : GroupSettings) : (s.setSettings g x).pool = s.pool := rfl
@[simp] theorem State.setSettings_limits (g : Group) (x : GroupSettings) : (s.setSettings g x).limits = s.limits := rfl
@[simp] theorem State.setSettings_contexts (g : Group) (x : GroupSettings) : (s.setSettings g x).contexts = s.contexts := rfl
@[simp] theorem State.setSettings_sources (g : Group) (x : GroupSettings) : (s.setSettings g x).sources = s.sources := rfl
@[simp] theorem State.setSettings_epochSeq (g : Group) (x : GroupSettings) : (s.setSettings g x).epochSeq = s.epochSeq := rfl
@[simp] theorem State.setSettings_claims (g : Group) (x : GroupSettings) : (s.setSettings g x).claims = s.claims := rfl
@[simp] theorem State.setSettings_regions (g : Group) (x : GroupSettings) : (s.setSettings g x).regions = s.regions := rfl
@[simp] theorem State.setSettings_access (g : Group) (x : GroupSettings) : (s.setSettings g x).access = s.access := rfl
@[simp] theorem State.setSettings_holder (g : Group) (x : GroupSettings) : (s.setSettings g x).holder = s.holder := rfl
@[simp] theorem State.setSettings_lastHolder (g : Group) (x : GroupSettings) : (s.setSettings g x).lastHolder = s.lastHolder := rfl
@[simp] theorem State.setSettings_grant (g : Group) (x : GroupSettings) : (s.setSettings g x).grant = s.grant := rfl
@[simp] theorem State.setSettings_queue (g : Group) (x : GroupSettings) : (s.setSettings g x).queue = s.queue := rfl
@[simp] theorem State.setSettings_job (g : Group) (x : GroupSettings) : (s.setSettings g x).job = s.job := rfl
@[simp] theorem State.setSettings_guards (g : Group) (x : GroupSettings) : (s.setSettings g x).guards = s.guards := rfl
@[simp] theorem State.setSettings_counters (g : Group) (x : GroupSettings) : (s.setSettings g x).counters = s.counters := rfl
@[simp] theorem State.setSettings_groups (g : Group) (x : GroupSettings) : (s.setSettings g x).groups = s.groups.set g.index x := rfl
@[simp] theorem State.setSettings_sdo (g : Group) (x : GroupSettings) : (s.setSettings g x).sdo = s.sdo := rfl
@[simp] theorem State.setSettings_lastResponse (g : Group) (x : GroupSettings) : (s.setSettings g x).lastResponse = s.lastResponse := rfl
@[simp] theorem State.setSettings_shortFrames (g : Group) (x : GroupSettings) : (s.setSettings g x).shortFrames = s.shortFrames := rfl
@[simp] theorem State.setSettings_events (g : Group) (x : GroupSettings) : (s.setSettings g x).events = s.events := rfl
@[simp] theorem State.setSettings_eventMask (g : Group) (x : GroupSettings) : (s.setSettings g x).eventMask = s.eventMask := rfl
@[simp] theorem State.setSettings_eventSeq (g : Group) (x : GroupSettings) : (s.setSettings g x).eventSeq = s.eventSeq := rfl
@[simp] theorem State.setSettings_lostEvents (g : Group) (x : GroupSettings) : (s.setSettings g x).lostEvents = s.lostEvents := rfl
@[simp] theorem State.setSettings_stat0 (g : Group) (x : GroupSettings) : (s.setSettings g x).stat0 = s.stat0 := rfl
@[simp] theorem State.setSettings_stat1 (g : Group) (x : GroupSettings) : (s.setSettings g x).stat1 = s.stat1 := rfl
@[simp] theorem State.setSettings_choices (g : Group) (x : GroupSettings) : (s.setSettings g x).choices = s.choices := rfl

/-! ### store -/

@[simp] theorem State.store_pending (a : Addr) (be : BitVec 4) (w : Word) : (s.store a be w).pending = s.pending := rfl
@[simp] theorem State.store_mem (a : Addr) (be : BitVec 4) (w : Word) : (s.store a be w).mem = Memory.putWord s.mem a be w := rfl
@[simp] theorem State.store_pfail (a : Addr) (be : BitVec 4) (w : Word) : (s.store a be w).pfail = s.pfail := rfl
@[simp] theorem State.store_inReset (a : Addr) (be : BitVec 4) (w : Word) : (s.store a be w).inReset = s.inReset := rfl
@[simp] theorem State.store_herr (a : Addr) (be : BitVec 4) (w : Word) : (s.store a be w).herr = s.herr := rfl
@[simp] theorem State.store_hd (a : Addr) (be : BitVec 4) (w : Word) : (s.store a be w).hd = s.hd := rfl
@[simp] theorem State.store_lastEnding (a : Addr) (be : BitVec 4) (w : Word) : (s.store a be w).lastEnding = s.lastEnding := rfl
@[simp] theorem State.store_mode (a : Addr) (be : BitVec 4) (w : Word) : (s.store a be w).mode = s.mode := rfl
@[simp] theorem State.store_work (a : Addr) (be : BitVec 4) (w : Word) : (s.store a be w).work = s.work := rfl
@[simp] theorem State.store_jbase (a : Addr) (be : BitVec 4) (w : Word) : (s.store a be w).jbase = s.jbase := rfl
@[simp] theorem State.store_nseg (a : Addr) (be : BitVec 4) (w : Word) : (s.store a be w).nseg = s.nseg := rfl
@[simp] theorem State.store_gen (a : Addr) (be : BitVec 4) (w : Word) : (s.store a be w).gen = s.gen := rfl
@[simp] theorem State.store_pool (a : Addr) (be : BitVec 4) (w : Word) : (s.store a be w).pool = s.pool := rfl
@[simp] theorem State.store_limits (a : Addr) (be : BitVec 4) (w : Word) : (s.store a be w).limits = s.limits := rfl
@[simp] theorem State.store_contexts (a : Addr) (be : BitVec 4) (w : Word) : (s.store a be w).contexts = s.contexts := rfl
@[simp] theorem State.store_sources (a : Addr) (be : BitVec 4) (w : Word) : (s.store a be w).sources = s.sources := rfl
@[simp] theorem State.store_epochSeq (a : Addr) (be : BitVec 4) (w : Word) : (s.store a be w).epochSeq = s.epochSeq := rfl
@[simp] theorem State.store_claims (a : Addr) (be : BitVec 4) (w : Word) : (s.store a be w).claims = s.claims := rfl
@[simp] theorem State.store_regions (a : Addr) (be : BitVec 4) (w : Word) : (s.store a be w).regions = s.regions := rfl
@[simp] theorem State.store_access (a : Addr) (be : BitVec 4) (w : Word) : (s.store a be w).access = s.access := rfl
@[simp] theorem State.store_holder (a : Addr) (be : BitVec 4) (w : Word) : (s.store a be w).holder = s.holder := rfl
@[simp] theorem State.store_lastHolder (a : Addr) (be : BitVec 4) (w : Word) : (s.store a be w).lastHolder = s.lastHolder := rfl
@[simp] theorem State.store_grant (a : Addr) (be : BitVec 4) (w : Word) : (s.store a be w).grant = s.grant := rfl
@[simp] theorem State.store_queue (a : Addr) (be : BitVec 4) (w : Word) : (s.store a be w).queue = s.queue := rfl
@[simp] theorem State.store_job (a : Addr) (be : BitVec 4) (w : Word) : (s.store a be w).job = s.job := rfl
@[simp] theorem State.store_guards (a : Addr) (be : BitVec 4) (w : Word) : (s.store a be w).guards = s.guards := rfl
@[simp] theorem State.store_counters (a : Addr) (be : BitVec 4) (w : Word) : (s.store a be w).counters = s.counters := rfl
@[simp] theorem State.store_groups (a : Addr) (be : BitVec 4) (w : Word) : (s.store a be w).groups = s.groups := rfl
@[simp] theorem State.store_sdo (a : Addr) (be : BitVec 4) (w : Word) : (s.store a be w).sdo = s.sdo := rfl
@[simp] theorem State.store_lastResponse (a : Addr) (be : BitVec 4) (w : Word) : (s.store a be w).lastResponse = s.lastResponse := rfl
@[simp] theorem State.store_shortFrames (a : Addr) (be : BitVec 4) (w : Word) : (s.store a be w).shortFrames = s.shortFrames := rfl
@[simp] theorem State.store_events (a : Addr) (be : BitVec 4) (w : Word) : (s.store a be w).events = s.events := rfl
@[simp] theorem State.store_eventMask (a : Addr) (be : BitVec 4) (w : Word) : (s.store a be w).eventMask = s.eventMask := rfl
@[simp] theorem State.store_eventSeq (a : Addr) (be : BitVec 4) (w : Word) : (s.store a be w).eventSeq = s.eventSeq := rfl
@[simp] theorem State.store_lostEvents (a : Addr) (be : BitVec 4) (w : Word) : (s.store a be w).lostEvents = s.lostEvents := rfl
@[simp] theorem State.store_stat0 (a : Addr) (be : BitVec 4) (w : Word) : (s.store a be w).stat0 = s.stat0 := rfl
@[simp] theorem State.store_stat1 (a : Addr) (be : BitVec 4) (w : Word) : (s.store a be w).stat1 = s.stat1 := rfl
@[simp] theorem State.store_choices (a : Addr) (be : BitVec 4) (w : Word) : (s.store a be w).choices = s.choices := rfl

/-! ### releaseClaim -/

@[simp] theorem State.releaseClaim_pending (a : Addr) (c : CtxNum) : (s.releaseClaim a c).pending = s.pending := rfl
@[simp] theorem State.releaseClaim_mem (a : Addr) (c : CtxNum) : (s.releaseClaim a c).mem = s.mem := rfl
@[simp] theorem State.releaseClaim_pfail (a : Addr) (c : CtxNum) : (s.releaseClaim a c).pfail = s.pfail := rfl
@[simp] theorem State.releaseClaim_inReset (a : Addr) (c : CtxNum) : (s.releaseClaim a c).inReset = s.inReset := rfl
@[simp] theorem State.releaseClaim_herr (a : Addr) (c : CtxNum) : (s.releaseClaim a c).herr = s.herr := rfl
@[simp] theorem State.releaseClaim_hd (a : Addr) (c : CtxNum) : (s.releaseClaim a c).hd = s.hd := rfl
@[simp] theorem State.releaseClaim_lastEnding (a : Addr) (c : CtxNum) : (s.releaseClaim a c).lastEnding = s.lastEnding := rfl
@[simp] theorem State.releaseClaim_mode (a : Addr) (c : CtxNum) : (s.releaseClaim a c).mode = s.mode := rfl
@[simp] theorem State.releaseClaim_work (a : Addr) (c : CtxNum) : (s.releaseClaim a c).work = s.work := rfl
@[simp] theorem State.releaseClaim_jbase (a : Addr) (c : CtxNum) : (s.releaseClaim a c).jbase = s.jbase := rfl
@[simp] theorem State.releaseClaim_nseg (a : Addr) (c : CtxNum) : (s.releaseClaim a c).nseg = s.nseg := rfl
@[simp] theorem State.releaseClaim_gen (a : Addr) (c : CtxNum) : (s.releaseClaim a c).gen = s.gen := rfl
@[simp] theorem State.releaseClaim_pool (a : Addr) (c : CtxNum) : (s.releaseClaim a c).pool = s.pool := rfl
@[simp] theorem State.releaseClaim_limits (a : Addr) (c : CtxNum) : (s.releaseClaim a c).limits = s.limits := rfl
@[simp] theorem State.releaseClaim_contexts (a : Addr) (c : CtxNum) : (s.releaseClaim a c).contexts = s.contexts := rfl
@[simp] theorem State.releaseClaim_sources (a : Addr) (c : CtxNum) : (s.releaseClaim a c).sources = s.sources := rfl
@[simp] theorem State.releaseClaim_epochSeq (a : Addr) (c : CtxNum) : (s.releaseClaim a c).epochSeq = s.epochSeq := rfl
@[simp] theorem State.releaseClaim_claims (a : Addr) (c : CtxNum) : (s.releaseClaim a c).claims = s.claims.filter (fun k => !(k.addr == a && k.owner == c)) := rfl
@[simp] theorem State.releaseClaim_regions (a : Addr) (c : CtxNum) : (s.releaseClaim a c).regions = s.regions := rfl
@[simp] theorem State.releaseClaim_access (a : Addr) (c : CtxNum) : (s.releaseClaim a c).access = s.access := rfl
@[simp] theorem State.releaseClaim_holder (a : Addr) (c : CtxNum) : (s.releaseClaim a c).holder = s.holder := rfl
@[simp] theorem State.releaseClaim_lastHolder (a : Addr) (c : CtxNum) : (s.releaseClaim a c).lastHolder = s.lastHolder := rfl
@[simp] theorem State.releaseClaim_grant (a : Addr) (c : CtxNum) : (s.releaseClaim a c).grant = s.grant := rfl
@[simp] theorem State.releaseClaim_queue (a : Addr) (c : CtxNum) : (s.releaseClaim a c).queue = s.queue := rfl
@[simp] theorem State.releaseClaim_job (a : Addr) (c : CtxNum) : (s.releaseClaim a c).job = s.job := rfl
@[simp] theorem State.releaseClaim_guards (a : Addr) (c : CtxNum) : (s.releaseClaim a c).guards = s.guards := rfl
@[simp] theorem State.releaseClaim_counters (a : Addr) (c : CtxNum) : (s.releaseClaim a c).counters = s.counters := rfl
@[simp] theorem State.releaseClaim_groups (a : Addr) (c : CtxNum) : (s.releaseClaim a c).groups = s.groups := rfl
@[simp] theorem State.releaseClaim_sdo (a : Addr) (c : CtxNum) : (s.releaseClaim a c).sdo = s.sdo := rfl
@[simp] theorem State.releaseClaim_lastResponse (a : Addr) (c : CtxNum) : (s.releaseClaim a c).lastResponse = s.lastResponse := rfl
@[simp] theorem State.releaseClaim_shortFrames (a : Addr) (c : CtxNum) : (s.releaseClaim a c).shortFrames = s.shortFrames := rfl
@[simp] theorem State.releaseClaim_events (a : Addr) (c : CtxNum) : (s.releaseClaim a c).events = s.events := rfl
@[simp] theorem State.releaseClaim_eventMask (a : Addr) (c : CtxNum) : (s.releaseClaim a c).eventMask = s.eventMask := rfl
@[simp] theorem State.releaseClaim_eventSeq (a : Addr) (c : CtxNum) : (s.releaseClaim a c).eventSeq = s.eventSeq := rfl
@[simp] theorem State.releaseClaim_lostEvents (a : Addr) (c : CtxNum) : (s.releaseClaim a c).lostEvents = s.lostEvents := rfl
@[simp] theorem State.releaseClaim_stat0 (a : Addr) (c : CtxNum) : (s.releaseClaim a c).stat0 = s.stat0 := rfl
@[simp] theorem State.releaseClaim_stat1 (a : Addr) (c : CtxNum) : (s.releaseClaim a c).stat1 = s.stat1 := rfl
@[simp] theorem State.releaseClaim_choices (a : Addr) (c : CtxNum) : (s.releaseClaim a c).choices = s.choices := rfl

/-! ### releaseAll -/

@[simp] theorem State.releaseAll_pending (c : CtxNum) : (s.releaseAll c).pending = s.pending := rfl
@[simp] theorem State.releaseAll_mem (c : CtxNum) : (s.releaseAll c).mem = s.mem := rfl
@[simp] theorem State.releaseAll_pfail (c : CtxNum) : (s.releaseAll c).pfail = s.pfail := rfl
@[simp] theorem State.releaseAll_inReset (c : CtxNum) : (s.releaseAll c).inReset = s.inReset := rfl
@[simp] theorem State.releaseAll_herr (c : CtxNum) : (s.releaseAll c).herr = s.herr := rfl
@[simp] theorem State.releaseAll_hd (c : CtxNum) : (s.releaseAll c).hd = s.hd := rfl
@[simp] theorem State.releaseAll_lastEnding (c : CtxNum) : (s.releaseAll c).lastEnding = s.lastEnding := rfl
@[simp] theorem State.releaseAll_mode (c : CtxNum) : (s.releaseAll c).mode = s.mode := rfl
@[simp] theorem State.releaseAll_work (c : CtxNum) : (s.releaseAll c).work = s.work := rfl
@[simp] theorem State.releaseAll_jbase (c : CtxNum) : (s.releaseAll c).jbase = s.jbase := rfl
@[simp] theorem State.releaseAll_nseg (c : CtxNum) : (s.releaseAll c).nseg = s.nseg := rfl
@[simp] theorem State.releaseAll_gen (c : CtxNum) : (s.releaseAll c).gen = s.gen := rfl
@[simp] theorem State.releaseAll_pool (c : CtxNum) : (s.releaseAll c).pool = s.pool := rfl
@[simp] theorem State.releaseAll_limits (c : CtxNum) : (s.releaseAll c).limits = s.limits := rfl
@[simp] theorem State.releaseAll_contexts (c : CtxNum) : (s.releaseAll c).contexts = s.contexts := rfl
@[simp] theorem State.releaseAll_sources (c : CtxNum) : (s.releaseAll c).sources = s.sources := rfl
@[simp] theorem State.releaseAll_epochSeq (c : CtxNum) : (s.releaseAll c).epochSeq = s.epochSeq := rfl
@[simp] theorem State.releaseAll_claims (c : CtxNum) : (s.releaseAll c).claims = s.claims.filter (fun k => !(k.owner == c)) := rfl
@[simp] theorem State.releaseAll_regions (c : CtxNum) : (s.releaseAll c).regions = s.regions := rfl
@[simp] theorem State.releaseAll_access (c : CtxNum) : (s.releaseAll c).access = s.access := rfl
@[simp] theorem State.releaseAll_holder (c : CtxNum) : (s.releaseAll c).holder = s.holder := rfl
@[simp] theorem State.releaseAll_lastHolder (c : CtxNum) : (s.releaseAll c).lastHolder = s.lastHolder := rfl
@[simp] theorem State.releaseAll_grant (c : CtxNum) : (s.releaseAll c).grant = s.grant := rfl
@[simp] theorem State.releaseAll_queue (c : CtxNum) : (s.releaseAll c).queue = s.queue := rfl
@[simp] theorem State.releaseAll_job (c : CtxNum) : (s.releaseAll c).job = s.job := rfl
@[simp] theorem State.releaseAll_guards (c : CtxNum) : (s.releaseAll c).guards = s.guards := rfl
@[simp] theorem State.releaseAll_counters (c : CtxNum) : (s.releaseAll c).counters = s.counters := rfl
@[simp] theorem State.releaseAll_groups (c : CtxNum) : (s.releaseAll c).groups = s.groups := rfl
@[simp] theorem State.releaseAll_sdo (c : CtxNum) : (s.releaseAll c).sdo = s.sdo := rfl
@[simp] theorem State.releaseAll_lastResponse (c : CtxNum) : (s.releaseAll c).lastResponse = s.lastResponse := rfl
@[simp] theorem State.releaseAll_shortFrames (c : CtxNum) : (s.releaseAll c).shortFrames = s.shortFrames := rfl
@[simp] theorem State.releaseAll_events (c : CtxNum) : (s.releaseAll c).events = s.events := rfl
@[simp] theorem State.releaseAll_eventMask (c : CtxNum) : (s.releaseAll c).eventMask = s.eventMask := rfl
@[simp] theorem State.releaseAll_eventSeq (c : CtxNum) : (s.releaseAll c).eventSeq = s.eventSeq := rfl
@[simp] theorem State.releaseAll_lostEvents (c : CtxNum) : (s.releaseAll c).lostEvents = s.lostEvents := rfl
@[simp] theorem State.releaseAll_stat0 (c : CtxNum) : (s.releaseAll c).stat0 = s.stat0 := rfl
@[simp] theorem State.releaseAll_stat1 (c : CtxNum) : (s.releaseAll c).stat1 = s.stat1 := rfl
@[simp] theorem State.releaseAll_choices (c : CtxNum) : (s.releaseAll c).choices = s.choices := rfl

/-! ### returnSegs -/

@[simp] theorem State.returnSegs_pending (l : List Nat) : (s.returnSegs l).pending = s.pending := rfl
@[simp] theorem State.returnSegs_mem (l : List Nat) : (s.returnSegs l).mem = s.mem := rfl
@[simp] theorem State.returnSegs_pfail (l : List Nat) : (s.returnSegs l).pfail = s.pfail := rfl
@[simp] theorem State.returnSegs_inReset (l : List Nat) : (s.returnSegs l).inReset = s.inReset := rfl
@[simp] theorem State.returnSegs_herr (l : List Nat) : (s.returnSegs l).herr = s.herr := rfl
@[simp] theorem State.returnSegs_hd (l : List Nat) : (s.returnSegs l).hd = s.hd := rfl
@[simp] theorem State.returnSegs_lastEnding (l : List Nat) : (s.returnSegs l).lastEnding = s.lastEnding := rfl
@[simp] theorem State.returnSegs_mode (l : List Nat) : (s.returnSegs l).mode = s.mode := rfl
@[simp] theorem State.returnSegs_work (l : List Nat) : (s.returnSegs l).work = s.work := rfl
@[simp] theorem State.returnSegs_jbase (l : List Nat) : (s.returnSegs l).jbase = s.jbase := rfl
@[simp] theorem State.returnSegs_nseg (l : List Nat) : (s.returnSegs l).nseg = s.nseg := rfl
@[simp] theorem State.returnSegs_gen (l : List Nat) : (s.returnSegs l).gen = s.gen := rfl
@[simp] theorem State.returnSegs_pool (l : List Nat) : (s.returnSegs l).pool = s.pool ++ l := rfl
@[simp] theorem State.returnSegs_limits (l : List Nat) : (s.returnSegs l).limits = s.limits := rfl
@[simp] theorem State.returnSegs_contexts (l : List Nat) : (s.returnSegs l).contexts = s.contexts := rfl
@[simp] theorem State.returnSegs_sources (l : List Nat) : (s.returnSegs l).sources = s.sources := rfl
@[simp] theorem State.returnSegs_epochSeq (l : List Nat) : (s.returnSegs l).epochSeq = s.epochSeq := rfl
@[simp] theorem State.returnSegs_claims (l : List Nat) : (s.returnSegs l).claims = s.claims := rfl
@[simp] theorem State.returnSegs_regions (l : List Nat) : (s.returnSegs l).regions = s.regions := rfl
@[simp] theorem State.returnSegs_access (l : List Nat) : (s.returnSegs l).access = s.access := rfl
@[simp] theorem State.returnSegs_holder (l : List Nat) : (s.returnSegs l).holder = s.holder := rfl
@[simp] theorem State.returnSegs_lastHolder (l : List Nat) : (s.returnSegs l).lastHolder = s.lastHolder := rfl
@[simp] theorem State.returnSegs_grant (l : List Nat) : (s.returnSegs l).grant = s.grant := rfl
@[simp] theorem State.returnSegs_queue (l : List Nat) : (s.returnSegs l).queue = s.queue := rfl
@[simp] theorem State.returnSegs_job (l : List Nat) : (s.returnSegs l).job = s.job := rfl
@[simp] theorem State.returnSegs_guards (l : List Nat) : (s.returnSegs l).guards = s.guards := rfl
@[simp] theorem State.returnSegs_counters (l : List Nat) : (s.returnSegs l).counters = s.counters := rfl
@[simp] theorem State.returnSegs_groups (l : List Nat) : (s.returnSegs l).groups = s.groups := rfl
@[simp] theorem State.returnSegs_sdo (l : List Nat) : (s.returnSegs l).sdo = s.sdo := rfl
@[simp] theorem State.returnSegs_lastResponse (l : List Nat) : (s.returnSegs l).lastResponse = s.lastResponse := rfl
@[simp] theorem State.returnSegs_shortFrames (l : List Nat) : (s.returnSegs l).shortFrames = s.shortFrames := rfl
@[simp] theorem State.returnSegs_events (l : List Nat) : (s.returnSegs l).events = s.events := rfl
@[simp] theorem State.returnSegs_eventMask (l : List Nat) : (s.returnSegs l).eventMask = s.eventMask := rfl
@[simp] theorem State.returnSegs_eventSeq (l : List Nat) : (s.returnSegs l).eventSeq = s.eventSeq := rfl
@[simp] theorem State.returnSegs_lostEvents (l : List Nat) : (s.returnSegs l).lostEvents = s.lostEvents := rfl
@[simp] theorem State.returnSegs_stat0 (l : List Nat) : (s.returnSegs l).stat0 = s.stat0 := rfl
@[simp] theorem State.returnSegs_stat1 (l : List Nat) : (s.returnSegs l).stat1 = s.stat1 := rfl
@[simp] theorem State.returnSegs_choices (l : List Nat) : (s.returnSegs l).choices = s.choices := rfl

/-! ### endDone -/

@[simp] theorem State.endDone_pending : (s.endDone).pending = s.pending := rfl
@[simp] theorem State.endDone_mem : (s.endDone).mem = s.mem := rfl
@[simp] theorem State.endDone_pfail : (s.endDone).pfail = s.pfail := rfl
@[simp] theorem State.endDone_inReset : (s.endDone).inReset = s.inReset := rfl
@[simp] theorem State.endDone_herr : (s.endDone).herr = false := rfl
@[simp] theorem State.endDone_hd : (s.endDone).hd = s.hd := rfl
@[simp] theorem State.endDone_lastEnding : (s.endDone).lastEnding = some .done := rfl
@[simp] theorem State.endDone_mode : (s.endDone).mode = s.mode := rfl
@[simp] theorem State.endDone_work : (s.endDone).work = s.work := rfl
@[simp] theorem State.endDone_jbase : (s.endDone).jbase = s.jbase := rfl
@[simp] theorem State.endDone_nseg : (s.endDone).nseg = s.nseg := rfl
@[simp] theorem State.endDone_gen : (s.endDone).gen = s.gen := rfl
@[simp] theorem State.endDone_pool : (s.endDone).pool = s.pool := rfl
@[simp] theorem State.endDone_limits : (s.endDone).limits = s.limits := rfl
@[simp] theorem State.endDone_contexts : (s.endDone).contexts = s.contexts := rfl
@[simp] theorem State.endDone_sources : (s.endDone).sources = s.sources := rfl
@[simp] theorem State.endDone_epochSeq : (s.endDone).epochSeq = s.epochSeq := rfl
@[simp] theorem State.endDone_claims : (s.endDone).claims = s.claims := rfl
@[simp] theorem State.endDone_regions : (s.endDone).regions = s.regions := rfl
@[simp] theorem State.endDone_access : (s.endDone).access = none := rfl
@[simp] theorem State.endDone_holder : (s.endDone).holder = s.holder := rfl
@[simp] theorem State.endDone_lastHolder : (s.endDone).lastHolder = s.lastHolder := rfl
@[simp] theorem State.endDone_grant : (s.endDone).grant = s.grant := rfl
@[simp] theorem State.endDone_queue : (s.endDone).queue = s.queue := rfl
@[simp] theorem State.endDone_job : (s.endDone).job = s.job := rfl
@[simp] theorem State.endDone_guards : (s.endDone).guards = s.guards := rfl
@[simp] theorem State.endDone_counters : (s.endDone).counters = s.counters := rfl
@[simp] theorem State.endDone_groups : (s.endDone).groups = s.groups := rfl
@[simp] theorem State.endDone_sdo : (s.endDone).sdo = s.sdo := rfl
@[simp] theorem State.endDone_lastResponse : (s.endDone).lastResponse = s.lastResponse := rfl
@[simp] theorem State.endDone_shortFrames : (s.endDone).shortFrames = s.shortFrames := rfl
@[simp] theorem State.endDone_events : (s.endDone).events = s.events := rfl
@[simp] theorem State.endDone_eventMask : (s.endDone).eventMask = s.eventMask := rfl
@[simp] theorem State.endDone_eventSeq : (s.endDone).eventSeq = s.eventSeq := rfl
@[simp] theorem State.endDone_lostEvents : (s.endDone).lostEvents = s.lostEvents := rfl
@[simp] theorem State.endDone_stat0 : (s.endDone).stat0 = s.stat0 := rfl
@[simp] theorem State.endDone_stat1 : (s.endDone).stat1 = s.stat1 := rfl
@[simp] theorem State.endDone_choices : (s.endDone).choices = s.choices := rfl

/-! ### endRead -/

@[simp] theorem State.endRead_pending (w : Word) : (s.endRead w).pending = s.pending := rfl
@[simp] theorem State.endRead_mem (w : Word) : (s.endRead w).mem = s.mem := rfl
@[simp] theorem State.endRead_pfail (w : Word) : (s.endRead w).pfail = s.pfail := rfl
@[simp] theorem State.endRead_inReset (w : Word) : (s.endRead w).inReset = s.inReset := rfl
@[simp] theorem State.endRead_herr (w : Word) : (s.endRead w).herr = false := rfl
@[simp] theorem State.endRead_hd (w : Word) : (s.endRead w).hd = w := rfl
@[simp] theorem State.endRead_lastEnding (w : Word) : (s.endRead w).lastEnding = some .done := rfl
@[simp] theorem State.endRead_mode (w : Word) : (s.endRead w).mode = s.mode := rfl
@[simp] theorem State.endRead_work (w : Word) : (s.endRead w).work = s.work := rfl
@[simp] theorem State.endRead_jbase (w : Word) : (s.endRead w).jbase = s.jbase := rfl
@[simp] theorem State.endRead_nseg (w : Word) : (s.endRead w).nseg = s.nseg := rfl
@[simp] theorem State.endRead_gen (w : Word) : (s.endRead w).gen = s.gen := rfl
@[simp] theorem State.endRead_pool (w : Word) : (s.endRead w).pool = s.pool := rfl
@[simp] theorem State.endRead_limits (w : Word) : (s.endRead w).limits = s.limits := rfl
@[simp] theorem State.endRead_contexts (w : Word) : (s.endRead w).contexts = s.contexts := rfl
@[simp] theorem State.endRead_sources (w : Word) : (s.endRead w).sources = s.sources := rfl
@[simp] theorem State.endRead_epochSeq (w : Word) : (s.endRead w).epochSeq = s.epochSeq := rfl
@[simp] theorem State.endRead_claims (w : Word) : (s.endRead w).claims = s.claims := rfl
@[simp] theorem State.endRead_regions (w : Word) : (s.endRead w).regions = s.regions := rfl
@[simp] theorem State.endRead_access (w : Word) : (s.endRead w).access = none := rfl
@[simp] theorem State.endRead_holder (w : Word) : (s.endRead w).holder = s.holder := rfl
@[simp] theorem State.endRead_lastHolder (w : Word) : (s.endRead w).lastHolder = s.lastHolder := rfl
@[simp] theorem State.endRead_grant (w : Word) : (s.endRead w).grant = s.grant := rfl
@[simp] theorem State.endRead_queue (w : Word) : (s.endRead w).queue = s.queue := rfl
@[simp] theorem State.endRead_job (w : Word) : (s.endRead w).job = s.job := rfl
@[simp] theorem State.endRead_guards (w : Word) : (s.endRead w).guards = s.guards := rfl
@[simp] theorem State.endRead_counters (w : Word) : (s.endRead w).counters = s.counters := rfl
@[simp] theorem State.endRead_groups (w : Word) : (s.endRead w).groups = s.groups := rfl
@[simp] theorem State.endRead_sdo (w : Word) : (s.endRead w).sdo = s.sdo := rfl
@[simp] theorem State.endRead_lastResponse (w : Word) : (s.endRead w).lastResponse = s.lastResponse := rfl
@[simp] theorem State.endRead_shortFrames (w : Word) : (s.endRead w).shortFrames = s.shortFrames := rfl
@[simp] theorem State.endRead_events (w : Word) : (s.endRead w).events = s.events := rfl
@[simp] theorem State.endRead_eventMask (w : Word) : (s.endRead w).eventMask = s.eventMask := rfl
@[simp] theorem State.endRead_eventSeq (w : Word) : (s.endRead w).eventSeq = s.eventSeq := rfl
@[simp] theorem State.endRead_lostEvents (w : Word) : (s.endRead w).lostEvents = s.lostEvents := rfl
@[simp] theorem State.endRead_stat0 (w : Word) : (s.endRead w).stat0 = s.stat0 := rfl
@[simp] theorem State.endRead_stat1 (w : Word) : (s.endRead w).stat1 = s.stat1 := rfl
@[simp] theorem State.endRead_choices (w : Word) : (s.endRead w).choices = s.choices := rfl

/-! ### endRefused -/

@[simp] theorem State.endRefused_pending (a : Access) (k : RefusalKind) : (s.endRefused a k).pending = s.pending := rfl
@[simp] theorem State.endRefused_mem (a : Access) (k : RefusalKind) : (s.endRefused a k).mem = s.mem := rfl
@[simp] theorem State.endRefused_pfail (a : Access) (k : RefusalKind) : (s.endRefused a k).pfail = s.pfail := rfl
@[simp] theorem State.endRefused_inReset (a : Access) (k : RefusalKind) : (s.endRefused a k).inReset = s.inReset := rfl
@[simp] theorem State.endRefused_herr (a : Access) (k : RefusalKind) : (s.endRefused a k).herr = true := rfl
@[simp] theorem State.endRefused_hd (a : Access) (k : RefusalKind) : (s.endRefused a k).hd = if a.write then s.hd else 0#32 := rfl
@[simp] theorem State.endRefused_lastEnding (a : Access) (k : RefusalKind) : (s.endRefused a k).lastEnding = some (.refused k) := rfl
@[simp] theorem State.endRefused_mode (a : Access) (k : RefusalKind) : (s.endRefused a k).mode = s.mode := rfl
@[simp] theorem State.endRefused_work (a : Access) (k : RefusalKind) : (s.endRefused a k).work = s.work := rfl
@[simp] theorem State.endRefused_jbase (a : Access) (k : RefusalKind) : (s.endRefused a k).jbase = s.jbase := rfl
@[simp] theorem State.endRefused_nseg (a : Access) (k : RefusalKind) : (s.endRefused a k).nseg = s.nseg := rfl
@[simp] theorem State.endRefused_gen (a : Access) (k : RefusalKind) : (s.endRefused a k).gen = s.gen := rfl
@[simp] theorem State.endRefused_pool (a : Access) (k : RefusalKind) : (s.endRefused a k).pool = s.pool := rfl
@[simp] theorem State.endRefused_limits (a : Access) (k : RefusalKind) : (s.endRefused a k).limits = s.limits := rfl
@[simp] theorem State.endRefused_contexts (a : Access) (k : RefusalKind) : (s.endRefused a k).contexts = s.contexts := rfl
@[simp] theorem State.endRefused_sources (a : Access) (k : RefusalKind) : (s.endRefused a k).sources = s.sources := rfl
@[simp] theorem State.endRefused_epochSeq (a : Access) (k : RefusalKind) : (s.endRefused a k).epochSeq = s.epochSeq := rfl
@[simp] theorem State.endRefused_claims (a : Access) (k : RefusalKind) : (s.endRefused a k).claims = s.claims := rfl
@[simp] theorem State.endRefused_regions (a : Access) (k : RefusalKind) : (s.endRefused a k).regions = s.regions := rfl
@[simp] theorem State.endRefused_access (a : Access) (k : RefusalKind) : (s.endRefused a k).access = none := rfl
@[simp] theorem State.endRefused_holder (a : Access) (k : RefusalKind) : (s.endRefused a k).holder = s.holder := rfl
@[simp] theorem State.endRefused_lastHolder (a : Access) (k : RefusalKind) : (s.endRefused a k).lastHolder = s.lastHolder := rfl
@[simp] theorem State.endRefused_grant (a : Access) (k : RefusalKind) : (s.endRefused a k).grant = s.grant := rfl
@[simp] theorem State.endRefused_queue (a : Access) (k : RefusalKind) : (s.endRefused a k).queue = s.queue := rfl
@[simp] theorem State.endRefused_job (a : Access) (k : RefusalKind) : (s.endRefused a k).job = s.job := rfl
@[simp] theorem State.endRefused_guards (a : Access) (k : RefusalKind) : (s.endRefused a k).guards = s.guards := rfl
@[simp] theorem State.endRefused_counters (a : Access) (k : RefusalKind) : (s.endRefused a k).counters = s.counters := rfl
@[simp] theorem State.endRefused_groups (a : Access) (k : RefusalKind) : (s.endRefused a k).groups = s.groups := rfl
@[simp] theorem State.endRefused_sdo (a : Access) (k : RefusalKind) : (s.endRefused a k).sdo = s.sdo := rfl
@[simp] theorem State.endRefused_lastResponse (a : Access) (k : RefusalKind) : (s.endRefused a k).lastResponse = s.lastResponse := rfl
@[simp] theorem State.endRefused_shortFrames (a : Access) (k : RefusalKind) : (s.endRefused a k).shortFrames = s.shortFrames := rfl
@[simp] theorem State.endRefused_events (a : Access) (k : RefusalKind) : (s.endRefused a k).events = s.events := rfl
@[simp] theorem State.endRefused_eventMask (a : Access) (k : RefusalKind) : (s.endRefused a k).eventMask = s.eventMask := rfl
@[simp] theorem State.endRefused_eventSeq (a : Access) (k : RefusalKind) : (s.endRefused a k).eventSeq = s.eventSeq := rfl
@[simp] theorem State.endRefused_lostEvents (a : Access) (k : RefusalKind) : (s.endRefused a k).lostEvents = s.lostEvents := rfl
@[simp] theorem State.endRefused_stat0 (a : Access) (k : RefusalKind) : (s.endRefused a k).stat0 = s.stat0 := rfl
@[simp] theorem State.endRefused_stat1 (a : Access) (k : RefusalKind) : (s.endRefused a k).stat1 = s.stat1 := rfl
@[simp] theorem State.endRefused_choices (a : Access) (k : RefusalKind) : (s.endRefused a k).choices = s.choices := rfl

/-! ### respond -/

@[simp] theorem State.respond_pending (st : Status) (r : List Byte) : (s.respond st r).pending = s.pending := rfl
@[simp] theorem State.respond_mem (st : Status) (r : List Byte) : (s.respond st r).mem = s.mem := rfl
@[simp] theorem State.respond_pfail (st : Status) (r : List Byte) : (s.respond st r).pfail = s.pfail := rfl
@[simp] theorem State.respond_inReset (st : Status) (r : List Byte) : (s.respond st r).inReset = s.inReset := rfl
@[simp] theorem State.respond_herr (st : Status) (r : List Byte) : (s.respond st r).herr = s.herr := rfl
@[simp] theorem State.respond_hd (st : Status) (r : List Byte) : (s.respond st r).hd = s.hd := rfl
@[simp] theorem State.respond_lastEnding (st : Status) (r : List Byte) : (s.respond st r).lastEnding = s.lastEnding := rfl
@[simp] theorem State.respond_mode (st : Status) (r : List Byte) : (s.respond st r).mode = s.mode := rfl
@[simp] theorem State.respond_work (st : Status) (r : List Byte) : (s.respond st r).work = s.work := rfl
@[simp] theorem State.respond_jbase (st : Status) (r : List Byte) : (s.respond st r).jbase = s.jbase := rfl
@[simp] theorem State.respond_nseg (st : Status) (r : List Byte) : (s.respond st r).nseg = s.nseg := rfl
@[simp] theorem State.respond_gen (st : Status) (r : List Byte) : (s.respond st r).gen = s.gen := rfl
@[simp] theorem State.respond_pool (st : Status) (r : List Byte) : (s.respond st r).pool = s.pool := rfl
@[simp] theorem State.respond_limits (st : Status) (r : List Byte) : (s.respond st r).limits = s.limits := rfl
@[simp] theorem State.respond_contexts (st : Status) (r : List Byte) : (s.respond st r).contexts = s.contexts := rfl
@[simp] theorem State.respond_sources (st : Status) (r : List Byte) : (s.respond st r).sources = s.sources := rfl
@[simp] theorem State.respond_epochSeq (st : Status) (r : List Byte) : (s.respond st r).epochSeq = s.epochSeq := rfl
@[simp] theorem State.respond_claims (st : Status) (r : List Byte) : (s.respond st r).claims = s.claims := rfl
@[simp] theorem State.respond_regions (st : Status) (r : List Byte) : (s.respond st r).regions = s.regions := rfl
@[simp] theorem State.respond_access (st : Status) (r : List Byte) : (s.respond st r).access = s.access := rfl
@[simp] theorem State.respond_holder (st : Status) (r : List Byte) : (s.respond st r).holder = s.holder := rfl
@[simp] theorem State.respond_lastHolder (st : Status) (r : List Byte) : (s.respond st r).lastHolder = s.lastHolder := rfl
@[simp] theorem State.respond_grant (st : Status) (r : List Byte) : (s.respond st r).grant = s.grant := rfl
@[simp] theorem State.respond_queue (st : Status) (r : List Byte) : (s.respond st r).queue = s.queue := rfl
@[simp] theorem State.respond_job (st : Status) (r : List Byte) : (s.respond st r).job = s.job := rfl
@[simp] theorem State.respond_guards (st : Status) (r : List Byte) : (s.respond st r).guards = s.guards := rfl
@[simp] theorem State.respond_counters (st : Status) (r : List Byte) : (s.respond st r).counters = s.counters := rfl
@[simp] theorem State.respond_groups (st : Status) (r : List Byte) : (s.respond st r).groups = s.groups := rfl
@[simp] theorem State.respond_sdo (st : Status) (r : List Byte) : (s.respond st r).sdo = st.code :: r := rfl
@[simp] theorem State.respond_lastResponse (st : Status) (r : List Byte) : (s.respond st r).lastResponse = st.code :: r := rfl
@[simp] theorem State.respond_shortFrames (st : Status) (r : List Byte) : (s.respond st r).shortFrames = s.shortFrames := rfl
@[simp] theorem State.respond_events (st : Status) (r : List Byte) : (s.respond st r).events = s.events := rfl
@[simp] theorem State.respond_eventMask (st : Status) (r : List Byte) : (s.respond st r).eventMask = s.eventMask := rfl
@[simp] theorem State.respond_eventSeq (st : Status) (r : List Byte) : (s.respond st r).eventSeq = s.eventSeq := rfl
@[simp] theorem State.respond_lostEvents (st : Status) (r : List Byte) : (s.respond st r).lostEvents = s.lostEvents := rfl
@[simp] theorem State.respond_stat0 (st : Status) (r : List Byte) : (s.respond st r).stat0 = s.stat0 := rfl
@[simp] theorem State.respond_stat1 (st : Status) (r : List Byte) : (s.respond st r).stat1 = s.stat1 := rfl
@[simp] theorem State.respond_choices (st : Status) (r : List Byte) : (s.respond st r).choices = s.choices := rfl

/-! ### answer -/

@[simp] theorem State.answer_pending (st : Status) : (s.answer st).pending = s.pending := rfl
@[simp] theorem State.answer_mem (st : Status) : (s.answer st).mem = s.mem := rfl
@[simp] theorem State.answer_pfail (st : Status) : (s.answer st).pfail = s.pfail := rfl
@[simp] theorem State.answer_inReset (st : Status) : (s.answer st).inReset = s.inReset := rfl
@[simp] theorem State.answer_herr (st : Status) : (s.answer st).herr = s.herr := rfl
@[simp] theorem State.answer_hd (st : Status) : (s.answer st).hd = s.hd := rfl
@[simp] theorem State.answer_lastEnding (st : Status) : (s.answer st).lastEnding = s.lastEnding := rfl
@[simp] theorem State.answer_mode (st : Status) : (s.answer st).mode = s.mode := rfl
@[simp] theorem State.answer_work (st : Status) : (s.answer st).work = s.work := rfl
@[simp] theorem State.answer_jbase (st : Status) : (s.answer st).jbase = s.jbase := rfl
@[simp] theorem State.answer_nseg (st : Status) : (s.answer st).nseg = s.nseg := rfl
@[simp] theorem State.answer_gen (st : Status) : (s.answer st).gen = s.gen := rfl
@[simp] theorem State.answer_pool (st : Status) : (s.answer st).pool = s.pool := rfl
@[simp] theorem State.answer_limits (st : Status) : (s.answer st).limits = s.limits := rfl
@[simp] theorem State.answer_contexts (st : Status) : (s.answer st).contexts = s.contexts := rfl
@[simp] theorem State.answer_sources (st : Status) : (s.answer st).sources = s.sources := rfl
@[simp] theorem State.answer_epochSeq (st : Status) : (s.answer st).epochSeq = s.epochSeq := rfl
@[simp] theorem State.answer_claims (st : Status) : (s.answer st).claims = s.claims := rfl
@[simp] theorem State.answer_regions (st : Status) : (s.answer st).regions = s.regions := rfl
@[simp] theorem State.answer_access (st : Status) : (s.answer st).access = s.access := rfl
@[simp] theorem State.answer_holder (st : Status) : (s.answer st).holder = s.holder := rfl
@[simp] theorem State.answer_lastHolder (st : Status) : (s.answer st).lastHolder = s.lastHolder := rfl
@[simp] theorem State.answer_grant (st : Status) : (s.answer st).grant = s.grant := rfl
@[simp] theorem State.answer_queue (st : Status) : (s.answer st).queue = s.queue := rfl
@[simp] theorem State.answer_job (st : Status) : (s.answer st).job = s.job := rfl
@[simp] theorem State.answer_guards (st : Status) : (s.answer st).guards = s.guards := rfl
@[simp] theorem State.answer_counters (st : Status) : (s.answer st).counters = s.counters := rfl
@[simp] theorem State.answer_groups (st : Status) : (s.answer st).groups = s.groups := rfl
@[simp] theorem State.answer_sdo (st : Status) : (s.answer st).sdo = [st.code] := rfl
@[simp] theorem State.answer_lastResponse (st : Status) : (s.answer st).lastResponse = [st.code] := rfl
@[simp] theorem State.answer_shortFrames (st : Status) : (s.answer st).shortFrames = s.shortFrames := rfl
@[simp] theorem State.answer_events (st : Status) : (s.answer st).events = s.events := rfl
@[simp] theorem State.answer_eventMask (st : Status) : (s.answer st).eventMask = s.eventMask := rfl
@[simp] theorem State.answer_eventSeq (st : Status) : (s.answer st).eventSeq = s.eventSeq := rfl
@[simp] theorem State.answer_lostEvents (st : Status) : (s.answer st).lostEvents = s.lostEvents := rfl
@[simp] theorem State.answer_stat0 (st : Status) : (s.answer st).stat0 = s.stat0 := rfl
@[simp] theorem State.answer_stat1 (st : Status) : (s.answer st).stat1 = s.stat1 := rfl
@[simp] theorem State.answer_choices (st : Status) : (s.answer st).choices = s.choices := rfl

/-! ### freePort -/

@[simp] theorem State.freePort_pending : (s.freePort).pending = s.pending := rfl
@[simp] theorem State.freePort_mem : (s.freePort).mem = s.mem := rfl
@[simp] theorem State.freePort_pfail : (s.freePort).pfail = s.pfail := rfl
@[simp] theorem State.freePort_inReset : (s.freePort).inReset = s.inReset := rfl
@[simp] theorem State.freePort_herr : (s.freePort).herr = s.herr := rfl
@[simp] theorem State.freePort_hd : (s.freePort).hd = s.hd := rfl
@[simp] theorem State.freePort_lastEnding : (s.freePort).lastEnding = s.lastEnding := rfl
@[simp] theorem State.freePort_mode : (s.freePort).mode = s.mode := rfl
@[simp] theorem State.freePort_work : (s.freePort).work = s.work := rfl
@[simp] theorem State.freePort_jbase : (s.freePort).jbase = s.jbase := rfl
@[simp] theorem State.freePort_nseg : (s.freePort).nseg = s.nseg := rfl
@[simp] theorem State.freePort_gen : (s.freePort).gen = s.gen := rfl
@[simp] theorem State.freePort_pool : (s.freePort).pool = s.pool := rfl
@[simp] theorem State.freePort_limits : (s.freePort).limits = s.limits := rfl
@[simp] theorem State.freePort_contexts : (s.freePort).contexts = s.contexts := rfl
@[simp] theorem State.freePort_sources : (s.freePort).sources = s.sources := rfl
@[simp] theorem State.freePort_epochSeq : (s.freePort).epochSeq = s.epochSeq := rfl
@[simp] theorem State.freePort_claims : (s.freePort).claims = s.claims := rfl
@[simp] theorem State.freePort_regions : (s.freePort).regions = s.regions := rfl
@[simp] theorem State.freePort_access : (s.freePort).access = s.access := rfl
@[simp] theorem State.freePort_holder : (s.freePort).holder = none := rfl
@[simp] theorem State.freePort_lastHolder : (s.freePort).lastHolder = s.holder.getD s.lastHolder := rfl
@[simp] theorem State.freePort_grant : (s.freePort).grant = none := rfl
@[simp] theorem State.freePort_queue : (s.freePort).queue = s.queue := rfl
@[simp] theorem State.freePort_job : (s.freePort).job = s.job := rfl
@[simp] theorem State.freePort_guards : (s.freePort).guards = s.guards := rfl
@[simp] theorem State.freePort_counters : (s.freePort).counters = s.counters := rfl
@[simp] theorem State.freePort_groups : (s.freePort).groups = s.groups := rfl
@[simp] theorem State.freePort_sdo : (s.freePort).sdo = s.sdo := rfl
@[simp] theorem State.freePort_lastResponse : (s.freePort).lastResponse = s.lastResponse := rfl
@[simp] theorem State.freePort_shortFrames : (s.freePort).shortFrames = s.shortFrames := rfl
@[simp] theorem State.freePort_events : (s.freePort).events = s.events := rfl
@[simp] theorem State.freePort_eventMask : (s.freePort).eventMask = s.eventMask := rfl
@[simp] theorem State.freePort_eventSeq : (s.freePort).eventSeq = s.eventSeq := rfl
@[simp] theorem State.freePort_lostEvents : (s.freePort).lostEvents = s.lostEvents := rfl
@[simp] theorem State.freePort_stat0 : (s.freePort).stat0 = s.stat0 := rfl
@[simp] theorem State.freePort_stat1 : (s.freePort).stat1 = s.stat1 := rfl
@[simp] theorem State.freePort_choices : (s.freePort).choices = s.choices := rfl

/-! ### enqueue -/

@[simp] theorem State.enqueue_pending (c : CtxNum) (p : Option SlotPos) : (s.enqueue c p).pending = s.pending := rfl
@[simp] theorem State.enqueue_mem (c : CtxNum) (p : Option SlotPos) : (s.enqueue c p).mem = s.mem := rfl
@[simp] theorem State.enqueue_pfail (c : CtxNum) (p : Option SlotPos) : (s.enqueue c p).pfail = s.pfail := rfl
@[simp] theorem State.enqueue_inReset (c : CtxNum) (p : Option SlotPos) : (s.enqueue c p).inReset = s.inReset := rfl
@[simp] theorem State.enqueue_herr (c : CtxNum) (p : Option SlotPos) : (s.enqueue c p).herr = s.herr := rfl
@[simp] theorem State.enqueue_hd (c : CtxNum) (p : Option SlotPos) : (s.enqueue c p).hd = s.hd := rfl
@[simp] theorem State.enqueue_lastEnding (c : CtxNum) (p : Option SlotPos) : (s.enqueue c p).lastEnding = s.lastEnding := rfl
@[simp] theorem State.enqueue_mode (c : CtxNum) (p : Option SlotPos) : (s.enqueue c p).mode = s.mode := rfl
@[simp] theorem State.enqueue_work (c : CtxNum) (p : Option SlotPos) : (s.enqueue c p).work = s.work := rfl
@[simp] theorem State.enqueue_jbase (c : CtxNum) (p : Option SlotPos) : (s.enqueue c p).jbase = s.jbase := rfl
@[simp] theorem State.enqueue_nseg (c : CtxNum) (p : Option SlotPos) : (s.enqueue c p).nseg = s.nseg := rfl
@[simp] theorem State.enqueue_gen (c : CtxNum) (p : Option SlotPos) : (s.enqueue c p).gen = s.gen := rfl
@[simp] theorem State.enqueue_pool (c : CtxNum) (p : Option SlotPos) : (s.enqueue c p).pool = s.pool := rfl
@[simp] theorem State.enqueue_limits (c : CtxNum) (p : Option SlotPos) : (s.enqueue c p).limits = s.limits := rfl
@[simp] theorem State.enqueue_contexts (c : CtxNum) (p : Option SlotPos) : (s.enqueue c p).contexts = s.contexts := rfl
@[simp] theorem State.enqueue_sources (c : CtxNum) (p : Option SlotPos) : (s.enqueue c p).sources = s.sources := rfl
@[simp] theorem State.enqueue_epochSeq (c : CtxNum) (p : Option SlotPos) : (s.enqueue c p).epochSeq = s.epochSeq := rfl
@[simp] theorem State.enqueue_claims (c : CtxNum) (p : Option SlotPos) : (s.enqueue c p).claims = s.claims := rfl
@[simp] theorem State.enqueue_regions (c : CtxNum) (p : Option SlotPos) : (s.enqueue c p).regions = s.regions := rfl
@[simp] theorem State.enqueue_access (c : CtxNum) (p : Option SlotPos) : (s.enqueue c p).access = s.access := rfl
@[simp] theorem State.enqueue_holder (c : CtxNum) (p : Option SlotPos) : (s.enqueue c p).holder = s.holder := rfl
@[simp] theorem State.enqueue_lastHolder (c : CtxNum) (p : Option SlotPos) : (s.enqueue c p).lastHolder = s.lastHolder := rfl
@[simp] theorem State.enqueue_grant (c : CtxNum) (p : Option SlotPos) : (s.enqueue c p).grant = s.grant := rfl
@[simp] theorem State.enqueue_queue (c : CtxNum) (p : Option SlotPos) : (s.enqueue c p).queue = s.queue ++ [⟨c, p⟩] := rfl
@[simp] theorem State.enqueue_job (c : CtxNum) (p : Option SlotPos) : (s.enqueue c p).job = s.job := rfl
@[simp] theorem State.enqueue_guards (c : CtxNum) (p : Option SlotPos) : (s.enqueue c p).guards = s.guards := rfl
@[simp] theorem State.enqueue_counters (c : CtxNum) (p : Option SlotPos) : (s.enqueue c p).counters = s.counters := rfl
@[simp] theorem State.enqueue_groups (c : CtxNum) (p : Option SlotPos) : (s.enqueue c p).groups = s.groups := rfl
@[simp] theorem State.enqueue_sdo (c : CtxNum) (p : Option SlotPos) : (s.enqueue c p).sdo = s.sdo := rfl
@[simp] theorem State.enqueue_lastResponse (c : CtxNum) (p : Option SlotPos) : (s.enqueue c p).lastResponse = s.lastResponse := rfl
@[simp] theorem State.enqueue_shortFrames (c : CtxNum) (p : Option SlotPos) : (s.enqueue c p).shortFrames = s.shortFrames := rfl
@[simp] theorem State.enqueue_events (c : CtxNum) (p : Option SlotPos) : (s.enqueue c p).events = s.events := rfl
@[simp] theorem State.enqueue_eventMask (c : CtxNum) (p : Option SlotPos) : (s.enqueue c p).eventMask = s.eventMask := rfl
@[simp] theorem State.enqueue_eventSeq (c : CtxNum) (p : Option SlotPos) : (s.enqueue c p).eventSeq = s.eventSeq := rfl
@[simp] theorem State.enqueue_lostEvents (c : CtxNum) (p : Option SlotPos) : (s.enqueue c p).lostEvents = s.lostEvents := rfl
@[simp] theorem State.enqueue_stat0 (c : CtxNum) (p : Option SlotPos) : (s.enqueue c p).stat0 = s.stat0 := rfl
@[simp] theorem State.enqueue_stat1 (c : CtxNum) (p : Option SlotPos) : (s.enqueue c p).stat1 = s.stat1 := rfl
@[simp] theorem State.enqueue_choices (c : CtxNum) (p : Option SlotPos) : (s.enqueue c p).choices = s.choices := rfl

/-! ### setPhase -/

@[simp] theorem State.setPhase_pending (c : CtxNum) (p : JobPhase) : (s.setPhase c p).pending = s.pending := rfl
@[simp] theorem State.setPhase_mem (c : CtxNum) (p : JobPhase) : (s.setPhase c p).mem = s.mem := rfl
@[simp] theorem State.setPhase_pfail (c : CtxNum) (p : JobPhase) : (s.setPhase c p).pfail = s.pfail := rfl
@[simp] theorem State.setPhase_inReset (c : CtxNum) (p : JobPhase) : (s.setPhase c p).inReset = s.inReset := rfl
@[simp] theorem State.setPhase_herr (c : CtxNum) (p : JobPhase) : (s.setPhase c p).herr = s.herr := rfl
@[simp] theorem State.setPhase_hd (c : CtxNum) (p : JobPhase) : (s.setPhase c p).hd = s.hd := rfl
@[simp] theorem State.setPhase_lastEnding (c : CtxNum) (p : JobPhase) : (s.setPhase c p).lastEnding = s.lastEnding := rfl
@[simp] theorem State.setPhase_mode (c : CtxNum) (p : JobPhase) : (s.setPhase c p).mode = s.mode := rfl
@[simp] theorem State.setPhase_work (c : CtxNum) (p : JobPhase) : (s.setPhase c p).work = s.work := rfl
@[simp] theorem State.setPhase_jbase (c : CtxNum) (p : JobPhase) : (s.setPhase c p).jbase = s.jbase := rfl
@[simp] theorem State.setPhase_nseg (c : CtxNum) (p : JobPhase) : (s.setPhase c p).nseg = s.nseg := rfl
@[simp] theorem State.setPhase_gen (c : CtxNum) (p : JobPhase) : (s.setPhase c p).gen = s.gen := rfl
@[simp] theorem State.setPhase_pool (c : CtxNum) (p : JobPhase) : (s.setPhase c p).pool = s.pool := rfl
@[simp] theorem State.setPhase_limits (c : CtxNum) (p : JobPhase) : (s.setPhase c p).limits = s.limits := rfl
@[simp] theorem State.setPhase_contexts (c : CtxNum) (p : JobPhase) : (s.setPhase c p).contexts = s.contexts := rfl
@[simp] theorem State.setPhase_sources (c : CtxNum) (p : JobPhase) : (s.setPhase c p).sources = s.sources := rfl
@[simp] theorem State.setPhase_epochSeq (c : CtxNum) (p : JobPhase) : (s.setPhase c p).epochSeq = s.epochSeq := rfl
@[simp] theorem State.setPhase_claims (c : CtxNum) (p : JobPhase) : (s.setPhase c p).claims = s.claims := rfl
@[simp] theorem State.setPhase_regions (c : CtxNum) (p : JobPhase) : (s.setPhase c p).regions = s.regions := rfl
@[simp] theorem State.setPhase_access (c : CtxNum) (p : JobPhase) : (s.setPhase c p).access = s.access := rfl
@[simp] theorem State.setPhase_holder (c : CtxNum) (p : JobPhase) : (s.setPhase c p).holder = s.holder := rfl
@[simp] theorem State.setPhase_lastHolder (c : CtxNum) (p : JobPhase) : (s.setPhase c p).lastHolder = s.lastHolder := rfl
@[simp] theorem State.setPhase_grant (c : CtxNum) (p : JobPhase) : (s.setPhase c p).grant = s.grant := rfl
@[simp] theorem State.setPhase_queue (c : CtxNum) (p : JobPhase) : (s.setPhase c p).queue = s.queue := rfl
@[simp] theorem State.setPhase_job (c : CtxNum) (p : JobPhase) : (s.setPhase c p).job = some ⟨c, p⟩ := rfl
@[simp] theorem State.setPhase_guards (c : CtxNum) (p : JobPhase) : (s.setPhase c p).guards = s.guards := rfl
@[simp] theorem State.setPhase_counters (c : CtxNum) (p : JobPhase) : (s.setPhase c p).counters = s.counters := rfl
@[simp] theorem State.setPhase_groups (c : CtxNum) (p : JobPhase) : (s.setPhase c p).groups = s.groups := rfl
@[simp] theorem State.setPhase_sdo (c : CtxNum) (p : JobPhase) : (s.setPhase c p).sdo = s.sdo := rfl
@[simp] theorem State.setPhase_lastResponse (c : CtxNum) (p : JobPhase) : (s.setPhase c p).lastResponse = s.lastResponse := rfl
@[simp] theorem State.setPhase_shortFrames (c : CtxNum) (p : JobPhase) : (s.setPhase c p).shortFrames = s.shortFrames := rfl
@[simp] theorem State.setPhase_events (c : CtxNum) (p : JobPhase) : (s.setPhase c p).events = s.events := rfl
@[simp] theorem State.setPhase_eventMask (c : CtxNum) (p : JobPhase) : (s.setPhase c p).eventMask = s.eventMask := rfl
@[simp] theorem State.setPhase_eventSeq (c : CtxNum) (p : JobPhase) : (s.setPhase c p).eventSeq = s.eventSeq := rfl
@[simp] theorem State.setPhase_lostEvents (c : CtxNum) (p : JobPhase) : (s.setPhase c p).lostEvents = s.lostEvents := rfl
@[simp] theorem State.setPhase_stat0 (c : CtxNum) (p : JobPhase) : (s.setPhase c p).stat0 = s.stat0 := rfl
@[simp] theorem State.setPhase_stat1 (c : CtxNum) (p : JobPhase) : (s.setPhase c p).stat1 = s.stat1 := rfl
@[simp] theorem State.setPhase_choices (c : CtxNum) (p : JobPhase) : (s.setPhase c p).choices = s.choices := rfl

/-! ### dropHead -/

@[simp] theorem State.dropHead_pending : (s.dropHead).pending = s.pending := rfl
@[simp] theorem State.dropHead_mem : (s.dropHead).mem = s.mem := rfl
@[simp] theorem State.dropHead_pfail : (s.dropHead).pfail = s.pfail := rfl
@[simp] theorem State.dropHead_inReset : (s.dropHead).inReset = s.inReset := rfl
@[simp] theorem State.dropHead_herr : (s.dropHead).herr = s.herr := rfl
@[simp] theorem State.dropHead_hd : (s.dropHead).hd = s.hd := rfl
@[simp] theorem State.dropHead_lastEnding : (s.dropHead).lastEnding = s.lastEnding := rfl
@[simp] theorem State.dropHead_mode : (s.dropHead).mode = s.mode := rfl
@[simp] theorem State.dropHead_work : (s.dropHead).work = s.work := rfl
@[simp] theorem State.dropHead_jbase : (s.dropHead).jbase = s.jbase := rfl
@[simp] theorem State.dropHead_nseg : (s.dropHead).nseg = s.nseg := rfl
@[simp] theorem State.dropHead_gen : (s.dropHead).gen = s.gen := rfl
@[simp] theorem State.dropHead_pool : (s.dropHead).pool = s.pool := rfl
@[simp] theorem State.dropHead_limits : (s.dropHead).limits = s.limits := rfl
@[simp] theorem State.dropHead_contexts : (s.dropHead).contexts = s.contexts := rfl
@[simp] theorem State.dropHead_sources : (s.dropHead).sources = s.sources := rfl
@[simp] theorem State.dropHead_epochSeq : (s.dropHead).epochSeq = s.epochSeq := rfl
@[simp] theorem State.dropHead_claims : (s.dropHead).claims = s.claims := rfl
@[simp] theorem State.dropHead_regions : (s.dropHead).regions = s.regions := rfl
@[simp] theorem State.dropHead_access : (s.dropHead).access = s.access := rfl
@[simp] theorem State.dropHead_holder : (s.dropHead).holder = s.holder := rfl
@[simp] theorem State.dropHead_lastHolder : (s.dropHead).lastHolder = s.lastHolder := rfl
@[simp] theorem State.dropHead_grant : (s.dropHead).grant = s.grant := rfl
@[simp] theorem State.dropHead_queue : (s.dropHead).queue = s.queue.tail := rfl
@[simp] theorem State.dropHead_job : (s.dropHead).job = none := rfl
@[simp] theorem State.dropHead_guards : (s.dropHead).guards = s.guards := rfl
@[simp] theorem State.dropHead_counters : (s.dropHead).counters = s.counters := rfl
@[simp] theorem State.dropHead_groups : (s.dropHead).groups = s.groups := rfl
@[simp] theorem State.dropHead_sdo : (s.dropHead).sdo = s.sdo := rfl
@[simp] theorem State.dropHead_lastResponse : (s.dropHead).lastResponse = s.lastResponse := rfl
@[simp] theorem State.dropHead_shortFrames : (s.dropHead).shortFrames = s.shortFrames := rfl
@[simp] theorem State.dropHead_events : (s.dropHead).events = s.events := rfl
@[simp] theorem State.dropHead_eventMask : (s.dropHead).eventMask = s.eventMask := rfl
@[simp] theorem State.dropHead_eventSeq : (s.dropHead).eventSeq = s.eventSeq := rfl
@[simp] theorem State.dropHead_lostEvents : (s.dropHead).lostEvents = s.lostEvents := rfl
@[simp] theorem State.dropHead_stat0 : (s.dropHead).stat0 = s.stat0 := rfl
@[simp] theorem State.dropHead_stat1 : (s.dropHead).stat1 = s.stat1 := rfl
@[simp] theorem State.dropHead_choices : (s.dropHead).choices = s.choices := rfl

/-! ### startGrant -/

@[simp] theorem State.startGrant_pending (t : Task) (ps : List PlannedOp) : (s.startGrant t ps).pending = s.pending := rfl
@[simp] theorem State.startGrant_mem (t : Task) (ps : List PlannedOp) : (s.startGrant t ps).mem = s.mem := rfl
@[simp] theorem State.startGrant_pfail (t : Task) (ps : List PlannedOp) : (s.startGrant t ps).pfail = s.pfail := rfl
@[simp] theorem State.startGrant_inReset (t : Task) (ps : List PlannedOp) : (s.startGrant t ps).inReset = s.inReset := rfl
@[simp] theorem State.startGrant_herr (t : Task) (ps : List PlannedOp) : (s.startGrant t ps).herr = s.herr := rfl
@[simp] theorem State.startGrant_hd (t : Task) (ps : List PlannedOp) : (s.startGrant t ps).hd = s.hd := rfl
@[simp] theorem State.startGrant_lastEnding (t : Task) (ps : List PlannedOp) : (s.startGrant t ps).lastEnding = s.lastEnding := rfl
@[simp] theorem State.startGrant_mode (t : Task) (ps : List PlannedOp) : (s.startGrant t ps).mode = s.mode := rfl
@[simp] theorem State.startGrant_work (t : Task) (ps : List PlannedOp) : (s.startGrant t ps).work = s.work := rfl
@[simp] theorem State.startGrant_jbase (t : Task) (ps : List PlannedOp) : (s.startGrant t ps).jbase = s.jbase := rfl
@[simp] theorem State.startGrant_nseg (t : Task) (ps : List PlannedOp) : (s.startGrant t ps).nseg = s.nseg := rfl
@[simp] theorem State.startGrant_gen (t : Task) (ps : List PlannedOp) : (s.startGrant t ps).gen = s.gen := rfl
@[simp] theorem State.startGrant_pool (t : Task) (ps : List PlannedOp) : (s.startGrant t ps).pool = s.pool := rfl
@[simp] theorem State.startGrant_limits (t : Task) (ps : List PlannedOp) : (s.startGrant t ps).limits = s.limits := rfl
@[simp] theorem State.startGrant_contexts (t : Task) (ps : List PlannedOp) : (s.startGrant t ps).contexts = s.contexts := rfl
@[simp] theorem State.startGrant_sources (t : Task) (ps : List PlannedOp) : (s.startGrant t ps).sources = s.sources := rfl
@[simp] theorem State.startGrant_epochSeq (t : Task) (ps : List PlannedOp) : (s.startGrant t ps).epochSeq = s.epochSeq := rfl
@[simp] theorem State.startGrant_claims (t : Task) (ps : List PlannedOp) : (s.startGrant t ps).claims = s.claims := rfl
@[simp] theorem State.startGrant_regions (t : Task) (ps : List PlannedOp) : (s.startGrant t ps).regions = s.regions := rfl
@[simp] theorem State.startGrant_access (t : Task) (ps : List PlannedOp) : (s.startGrant t ps).access = s.access := rfl
@[simp] theorem State.startGrant_holder (t : Task) (ps : List PlannedOp) : (s.startGrant t ps).holder = s.holder := rfl
@[simp] theorem State.startGrant_lastHolder (t : Task) (ps : List PlannedOp) : (s.startGrant t ps).lastHolder = s.lastHolder := rfl
@[simp] theorem State.startGrant_grant (t : Task) (ps : List PlannedOp) : (s.startGrant t ps).grant = some ⟨t, ps, [], []⟩ := rfl
@[simp] theorem State.startGrant_queue (t : Task) (ps : List PlannedOp) : (s.startGrant t ps).queue = s.queue := rfl
@[simp] theorem State.startGrant_job (t : Task) (ps : List PlannedOp) : (s.startGrant t ps).job = s.job := rfl
@[simp] theorem State.startGrant_guards (t : Task) (ps : List PlannedOp) : (s.startGrant t ps).guards = s.guards := rfl
@[simp] theorem State.startGrant_counters (t : Task) (ps : List PlannedOp) : (s.startGrant t ps).counters = s.counters := rfl
@[simp] theorem State.startGrant_groups (t : Task) (ps : List PlannedOp) : (s.startGrant t ps).groups = s.groups := rfl
@[simp] theorem State.startGrant_sdo (t : Task) (ps : List PlannedOp) : (s.startGrant t ps).sdo = s.sdo := rfl
@[simp] theorem State.startGrant_lastResponse (t : Task) (ps : List PlannedOp) : (s.startGrant t ps).lastResponse = s.lastResponse := rfl
@[simp] theorem State.startGrant_shortFrames (t : Task) (ps : List PlannedOp) : (s.startGrant t ps).shortFrames = s.shortFrames := rfl
@[simp] theorem State.startGrant_events (t : Task) (ps : List PlannedOp) : (s.startGrant t ps).events = s.events := rfl
@[simp] theorem State.startGrant_eventMask (t : Task) (ps : List PlannedOp) : (s.startGrant t ps).eventMask = s.eventMask := rfl
@[simp] theorem State.startGrant_eventSeq (t : Task) (ps : List PlannedOp) : (s.startGrant t ps).eventSeq = s.eventSeq := rfl
@[simp] theorem State.startGrant_lostEvents (t : Task) (ps : List PlannedOp) : (s.startGrant t ps).lostEvents = s.lostEvents := rfl
@[simp] theorem State.startGrant_stat0 (t : Task) (ps : List PlannedOp) : (s.startGrant t ps).stat0 = s.stat0 := rfl
@[simp] theorem State.startGrant_stat1 (t : Task) (ps : List PlannedOp) : (s.startGrant t ps).stat1 = s.stat1 := rfl
@[simp] theorem State.startGrant_choices (t : Task) (ps : List PlannedOp) : (s.startGrant t ps).choices = s.choices := rfl

/-! ### setTodo -/

@[simp] theorem State.setTodo_pending (ps : List PlannedOp) : (s.setTodo ps).pending = s.pending := rfl
@[simp] theorem State.setTodo_mem (ps : List PlannedOp) : (s.setTodo ps).mem = s.mem := rfl
@[simp] theorem State.setTodo_pfail (ps : List PlannedOp) : (s.setTodo ps).pfail = s.pfail := rfl
@[simp] theorem State.setTodo_inReset (ps : List PlannedOp) : (s.setTodo ps).inReset = s.inReset := rfl
@[simp] theorem State.setTodo_herr (ps : List PlannedOp) : (s.setTodo ps).herr = s.herr := rfl
@[simp] theorem State.setTodo_hd (ps : List PlannedOp) : (s.setTodo ps).hd = s.hd := rfl
@[simp] theorem State.setTodo_lastEnding (ps : List PlannedOp) : (s.setTodo ps).lastEnding = s.lastEnding := rfl
@[simp] theorem State.setTodo_mode (ps : List PlannedOp) : (s.setTodo ps).mode = s.mode := rfl
@[simp] theorem State.setTodo_work (ps : List PlannedOp) : (s.setTodo ps).work = s.work := rfl
@[simp] theorem State.setTodo_jbase (ps : List PlannedOp) : (s.setTodo ps).jbase = s.jbase := rfl
@[simp] theorem State.setTodo_nseg (ps : List PlannedOp) : (s.setTodo ps).nseg = s.nseg := rfl
@[simp] theorem State.setTodo_gen (ps : List PlannedOp) : (s.setTodo ps).gen = s.gen := rfl
@[simp] theorem State.setTodo_pool (ps : List PlannedOp) : (s.setTodo ps).pool = s.pool := rfl
@[simp] theorem State.setTodo_limits (ps : List PlannedOp) : (s.setTodo ps).limits = s.limits := rfl
@[simp] theorem State.setTodo_contexts (ps : List PlannedOp) : (s.setTodo ps).contexts = s.contexts := rfl
@[simp] theorem State.setTodo_sources (ps : List PlannedOp) : (s.setTodo ps).sources = s.sources := rfl
@[simp] theorem State.setTodo_epochSeq (ps : List PlannedOp) : (s.setTodo ps).epochSeq = s.epochSeq := rfl
@[simp] theorem State.setTodo_claims (ps : List PlannedOp) : (s.setTodo ps).claims = s.claims := rfl
@[simp] theorem State.setTodo_regions (ps : List PlannedOp) : (s.setTodo ps).regions = s.regions := rfl
@[simp] theorem State.setTodo_access (ps : List PlannedOp) : (s.setTodo ps).access = s.access := rfl
@[simp] theorem State.setTodo_holder (ps : List PlannedOp) : (s.setTodo ps).holder = s.holder := rfl
@[simp] theorem State.setTodo_lastHolder (ps : List PlannedOp) : (s.setTodo ps).lastHolder = s.lastHolder := rfl
@[simp] theorem State.setTodo_grant (ps : List PlannedOp) : (s.setTodo ps).grant = s.grant.map fun g => { g with todo := ps } := rfl
@[simp] theorem State.setTodo_queue (ps : List PlannedOp) : (s.setTodo ps).queue = s.queue := rfl
@[simp] theorem State.setTodo_job (ps : List PlannedOp) : (s.setTodo ps).job = s.job := rfl
@[simp] theorem State.setTodo_guards (ps : List PlannedOp) : (s.setTodo ps).guards = s.guards := rfl
@[simp] theorem State.setTodo_counters (ps : List PlannedOp) : (s.setTodo ps).counters = s.counters := rfl
@[simp] theorem State.setTodo_groups (ps : List PlannedOp) : (s.setTodo ps).groups = s.groups := rfl
@[simp] theorem State.setTodo_sdo (ps : List PlannedOp) : (s.setTodo ps).sdo = s.sdo := rfl
@[simp] theorem State.setTodo_lastResponse (ps : List PlannedOp) : (s.setTodo ps).lastResponse = s.lastResponse := rfl
@[simp] theorem State.setTodo_shortFrames (ps : List PlannedOp) : (s.setTodo ps).shortFrames = s.shortFrames := rfl
@[simp] theorem State.setTodo_events (ps : List PlannedOp) : (s.setTodo ps).events = s.events := rfl
@[simp] theorem State.setTodo_eventMask (ps : List PlannedOp) : (s.setTodo ps).eventMask = s.eventMask := rfl
@[simp] theorem State.setTodo_eventSeq (ps : List PlannedOp) : (s.setTodo ps).eventSeq = s.eventSeq := rfl
@[simp] theorem State.setTodo_lostEvents (ps : List PlannedOp) : (s.setTodo ps).lostEvents = s.lostEvents := rfl
@[simp] theorem State.setTodo_stat0 (ps : List PlannedOp) : (s.setTodo ps).stat0 = s.stat0 := rfl
@[simp] theorem State.setTodo_stat1 (ps : List PlannedOp) : (s.setTodo ps).stat1 = s.stat1 := rfl
@[simp] theorem State.setTodo_choices (ps : List PlannedOp) : (s.setTodo ps).choices = s.choices := rfl

/-! ### addHit -/

@[simp] theorem State.addHit_pending (h : GuardHit) : (s.addHit h).pending = s.pending := rfl
@[simp] theorem State.addHit_mem (h : GuardHit) : (s.addHit h).mem = s.mem := rfl
@[simp] theorem State.addHit_pfail (h : GuardHit) : (s.addHit h).pfail = s.pfail := rfl
@[simp] theorem State.addHit_inReset (h : GuardHit) : (s.addHit h).inReset = s.inReset := rfl
@[simp] theorem State.addHit_herr (h : GuardHit) : (s.addHit h).herr = s.herr := rfl
@[simp] theorem State.addHit_hd (h : GuardHit) : (s.addHit h).hd = s.hd := rfl
@[simp] theorem State.addHit_lastEnding (h : GuardHit) : (s.addHit h).lastEnding = s.lastEnding := rfl
@[simp] theorem State.addHit_mode (h : GuardHit) : (s.addHit h).mode = s.mode := rfl
@[simp] theorem State.addHit_work (h : GuardHit) : (s.addHit h).work = s.work := rfl
@[simp] theorem State.addHit_jbase (h : GuardHit) : (s.addHit h).jbase = s.jbase := rfl
@[simp] theorem State.addHit_nseg (h : GuardHit) : (s.addHit h).nseg = s.nseg := rfl
@[simp] theorem State.addHit_gen (h : GuardHit) : (s.addHit h).gen = s.gen := rfl
@[simp] theorem State.addHit_pool (h : GuardHit) : (s.addHit h).pool = s.pool := rfl
@[simp] theorem State.addHit_limits (h : GuardHit) : (s.addHit h).limits = s.limits := rfl
@[simp] theorem State.addHit_contexts (h : GuardHit) : (s.addHit h).contexts = s.contexts := rfl
@[simp] theorem State.addHit_sources (h : GuardHit) : (s.addHit h).sources = s.sources := rfl
@[simp] theorem State.addHit_epochSeq (h : GuardHit) : (s.addHit h).epochSeq = s.epochSeq := rfl
@[simp] theorem State.addHit_claims (h : GuardHit) : (s.addHit h).claims = s.claims := rfl
@[simp] theorem State.addHit_regions (h : GuardHit) : (s.addHit h).regions = s.regions := rfl
@[simp] theorem State.addHit_access (h : GuardHit) : (s.addHit h).access = s.access := rfl
@[simp] theorem State.addHit_holder (h : GuardHit) : (s.addHit h).holder = s.holder := rfl
@[simp] theorem State.addHit_lastHolder (h : GuardHit) : (s.addHit h).lastHolder = s.lastHolder := rfl
@[simp] theorem State.addHit_grant (h : GuardHit) : (s.addHit h).grant = s.grant.map fun g => { g with hits := g.hits ++ [h] } := rfl
@[simp] theorem State.addHit_queue (h : GuardHit) : (s.addHit h).queue = s.queue := rfl
@[simp] theorem State.addHit_job (h : GuardHit) : (s.addHit h).job = s.job := rfl
@[simp] theorem State.addHit_guards (h : GuardHit) : (s.addHit h).guards = s.guards := rfl
@[simp] theorem State.addHit_counters (h : GuardHit) : (s.addHit h).counters = s.counters := rfl
@[simp] theorem State.addHit_groups (h : GuardHit) : (s.addHit h).groups = s.groups := rfl
@[simp] theorem State.addHit_sdo (h : GuardHit) : (s.addHit h).sdo = s.sdo := rfl
@[simp] theorem State.addHit_lastResponse (h : GuardHit) : (s.addHit h).lastResponse = s.lastResponse := rfl
@[simp] theorem State.addHit_shortFrames (h : GuardHit) : (s.addHit h).shortFrames = s.shortFrames := rfl
@[simp] theorem State.addHit_events (h : GuardHit) : (s.addHit h).events = s.events := rfl
@[simp] theorem State.addHit_eventMask (h : GuardHit) : (s.addHit h).eventMask = s.eventMask := rfl
@[simp] theorem State.addHit_eventSeq (h : GuardHit) : (s.addHit h).eventSeq = s.eventSeq := rfl
@[simp] theorem State.addHit_lostEvents (h : GuardHit) : (s.addHit h).lostEvents = s.lostEvents := rfl
@[simp] theorem State.addHit_stat0 (h : GuardHit) : (s.addHit h).stat0 = s.stat0 := rfl
@[simp] theorem State.addHit_stat1 (h : GuardHit) : (s.addHit h).stat1 = s.stat1 := rfl
@[simp] theorem State.addHit_choices (h : GuardHit) : (s.addHit h).choices = s.choices := rfl

/-! ### addLate -/

@[simp] theorem State.addLate_pending (i : Fin 8) : (s.addLate i).pending = s.pending := rfl
@[simp] theorem State.addLate_mem (i : Fin 8) : (s.addLate i).mem = s.mem := rfl
@[simp] theorem State.addLate_pfail (i : Fin 8) : (s.addLate i).pfail = s.pfail := rfl
@[simp] theorem State.addLate_inReset (i : Fin 8) : (s.addLate i).inReset = s.inReset := rfl
@[simp] theorem State.addLate_herr (i : Fin 8) : (s.addLate i).herr = s.herr := rfl
@[simp] theorem State.addLate_hd (i : Fin 8) : (s.addLate i).hd = s.hd := rfl
@[simp] theorem State.addLate_lastEnding (i : Fin 8) : (s.addLate i).lastEnding = s.lastEnding := rfl
@[simp] theorem State.addLate_mode (i : Fin 8) : (s.addLate i).mode = s.mode := rfl
@[simp] theorem State.addLate_work (i : Fin 8) : (s.addLate i).work = s.work := rfl
@[simp] theorem State.addLate_jbase (i : Fin 8) : (s.addLate i).jbase = s.jbase := rfl
@[simp] theorem State.addLate_nseg (i : Fin 8) : (s.addLate i).nseg = s.nseg := rfl
@[simp] theorem State.addLate_gen (i : Fin 8) : (s.addLate i).gen = s.gen := rfl
@[simp] theorem State.addLate_pool (i : Fin 8) : (s.addLate i).pool = s.pool := rfl
@[simp] theorem State.addLate_limits (i : Fin 8) : (s.addLate i).limits = s.limits := rfl
@[simp] theorem State.addLate_contexts (i : Fin 8) : (s.addLate i).contexts = s.contexts := rfl
@[simp] theorem State.addLate_sources (i : Fin 8) : (s.addLate i).sources = s.sources := rfl
@[simp] theorem State.addLate_epochSeq (i : Fin 8) : (s.addLate i).epochSeq = s.epochSeq := rfl
@[simp] theorem State.addLate_claims (i : Fin 8) : (s.addLate i).claims = s.claims := rfl
@[simp] theorem State.addLate_regions (i : Fin 8) : (s.addLate i).regions = s.regions := rfl
@[simp] theorem State.addLate_access (i : Fin 8) : (s.addLate i).access = s.access := rfl
@[simp] theorem State.addLate_holder (i : Fin 8) : (s.addLate i).holder = s.holder := rfl
@[simp] theorem State.addLate_lastHolder (i : Fin 8) : (s.addLate i).lastHolder = s.lastHolder := rfl
@[simp] theorem State.addLate_grant (i : Fin 8) : (s.addLate i).grant = s.grant.map fun g => { g with late := g.late ++ [i] } := rfl
@[simp] theorem State.addLate_queue (i : Fin 8) : (s.addLate i).queue = s.queue := rfl
@[simp] theorem State.addLate_job (i : Fin 8) : (s.addLate i).job = s.job := rfl
@[simp] theorem State.addLate_guards (i : Fin 8) : (s.addLate i).guards = s.guards := rfl
@[simp] theorem State.addLate_counters (i : Fin 8) : (s.addLate i).counters = s.counters := rfl
@[simp] theorem State.addLate_groups (i : Fin 8) : (s.addLate i).groups = s.groups := rfl
@[simp] theorem State.addLate_sdo (i : Fin 8) : (s.addLate i).sdo = s.sdo := rfl
@[simp] theorem State.addLate_lastResponse (i : Fin 8) : (s.addLate i).lastResponse = s.lastResponse := rfl
@[simp] theorem State.addLate_shortFrames (i : Fin 8) : (s.addLate i).shortFrames = s.shortFrames := rfl
@[simp] theorem State.addLate_events (i : Fin 8) : (s.addLate i).events = s.events := rfl
@[simp] theorem State.addLate_eventMask (i : Fin 8) : (s.addLate i).eventMask = s.eventMask := rfl
@[simp] theorem State.addLate_eventSeq (i : Fin 8) : (s.addLate i).eventSeq = s.eventSeq := rfl
@[simp] theorem State.addLate_lostEvents (i : Fin 8) : (s.addLate i).lostEvents = s.lostEvents := rfl
@[simp] theorem State.addLate_stat0 (i : Fin 8) : (s.addLate i).stat0 = s.stat0 := rfl
@[simp] theorem State.addLate_stat1 (i : Fin 8) : (s.addLate i).stat1 = s.stat1 := rfl
@[simp] theorem State.addLate_choices (i : Fin 8) : (s.addLate i).choices = s.choices := rfl

end Sys2Proof.Machine
end

