-- ==== Sys2Proof/Laws/Frame.lean ====
section
/-! SUPPORT. What the compound operations leave alone: one lemma per operation, from which a field's lemma follows by projection. -/

namespace Sys2Proof.Machine

/-- The part of the state that only commands, memory writes and the ends of format and recovery work change. -/
def State.fixed (s : State) : State :=
  { State.reset with
    pending := s.pending, mem := s.mem, pfail := s.pfail, inReset := s.inReset, mode := s.mode, work := s.work,
    jbase := s.jbase, nseg := s.nseg, gen := s.gen, limits := s.limits, regions := s.regions, groups := s.groups,
    sdo := s.sdo, lastResponse := s.lastResponse, shortFrames := s.shortFrames, eventMask := s.eventMask,
    stat0 := s.stat0, stat1 := s.stat1 }

variable (s : State)

theorem State.raise_fixed (k ctx src code n a) : (s.raise k ctx src code n a).fixed = s.fixed := by
  unfold State.raise; split
  · split <;> rfl
  · rfl

theorem State.lowWater_fixed (n : Nat) : (s.lowWater n).fixed = s.fixed := by
  unfold State.lowWater; split
  · exact s.raise_fixed ..
  · rfl

theorem State.mapEpoch_fixed (c : CtxNum) (f : Epoch → Epoch) : (s.mapEpoch c f).fixed = s.fixed := by
  unfold State.mapEpoch; split <;> rfl

theorem State.insertClaim_fixed (a : Addr) (c : CtxNum) : (s.insertClaim a c).fixed = s.fixed := by
  unfold State.insertClaim; split <;> rfl

theorem State.arbitrate_fixed : s.arbitrate.fixed = s.fixed := by
  unfold State.arbitrate; split
  · rfl
  · split <;> rfl

theorem State.reloadIdle_fixed (c : CtxNum) : (s.reloadIdle c).fixed = s.fixed := by
  unfold State.reloadIdle; split
  · split <;> rfl
  · rfl

theorem State.takeRollback_fixed (c : CtxNum) (k : Cause) : (s.takeRollback c k).fixed = s.fixed := by
  unfold State.takeRollback; split
  · split
    · exact State.raise_fixed ..
    · rfl
  · rfl

theorem State.takeCommit_fixed (c : CtxNum) : (s.takeCommit c).fixed = s.fixed := by
  unfold State.takeCommit; split
  · split
    · exact State.raise_fixed ..
    · rfl
  · rfl

theorem State.openWith_fixed (c : CtxNum) (i : SrcNum) (n : Nat) (l : List Nat) : (s.openWith c i n l).fixed = s.fixed :=
  State.lowWater_fixed ..

theorem State.thresholdAbort_fixed (b : Option CtxNum) : (s.thresholdAbort b).fixed = s.fixed := by
  unfold State.thresholdAbort; split
  · exact State.takeRollback_fixed ..
  · rfl

theorem State.thresholdReached_fixed (i : SrcNum) (g : Group) (b : Option CtxNum) :
    (s.thresholdReached i g b).fixed = s.fixed := by
  have h (b : Option CtxNum) :
      ((if (s.settings g).fence then s.setFence i true else s).thresholdAbort b).fixed = s.fixed := by
    rw [State.thresholdAbort_fixed]
    split <;> rfl
  unfold State.thresholdReached
  simp only []
  split
  · rw [State.raise_fixed]
    exact h _
  · exact h _

theorem State.countBound_fixed (i : SrcNum) (g : Group) (b : Option CtxNum) : (s.countBound i g b).fixed = s.fixed := by
  unfold State.countBound
  simp only []
  split
  · rw [State.thresholdReached_fixed]
    rfl
  · rfl

theorem State.count_fixed (i : SrcNum) (g : Group) : (s.count i g).fixed = s.fixed := State.countBound_fixed ..

theorem State.report_fixed (i : SrcNum) (k : RefusalKind) : (s.report i k).fixed = s.fixed := by
  unfold State.report; split
  · exact State.count_fixed ..
  · rfl

theorem State.refuse_fixed (a : Access) (k : RefusalKind) : (s.refuse a k).fixed = s.fixed := by
  rw [State.refuse, State.report_fixed]; rfl

theorem State.enterHold_fixed (h : HostAccess) (r : HoldReason) : (s.enterHold h r).fixed = s.fixed := by
  unfold State.enterHold; split
  · exact State.refuse_fixed ..
  · rfl

theorem State.settle_fixed (h : HostAccess) (v : Verdict) : (s.settle h v).fixed = s.fixed := by
  unfold State.settle; split
  · rfl
  · exact State.refuse_fixed ..
  · exact State.enterHold_fixed ..
  · rfl

theorem State.classifyAgain_fixed (h : HostAccess) : (s.classifyAgain h).fixed = s.fixed := State.settle_fixed ..

theorem State.deliver_fixed (p : Report) : (s.deliver p).fixed = s.fixed := by
  unfold State.deliver; split
  · split
    · split
      · exact State.classifyAgain_fixed ..
      · rfl
    · rfl
  · rfl

theorem State.requestRollback_fixed (c : CtxNum) (k : Cause) : (s.requestRollback c k).fixed = s.fixed := by
  rw [State.requestRollback, State.deliver_fixed, State.takeRollback_fixed]

theorem State.requestCommit_fixed (c : CtxNum) : (s.requestCommit c).fixed = s.fixed := by
  rw [State.requestCommit, State.deliver_fixed, State.takeCommit_fixed]

theorem State.capacityAbort_fixed (a : Access) (c : CtxNum) (k : RefusalKind) :
    (s.capacityAbort a c k).fixed = s.fixed := by
  unfold State.capacityAbort
  split
  · simp only []
    split
    · rw [State.countBound_fixed, State.requestRollback_fixed]
      rfl
    · rw [State.requestRollback_fixed, State.count_fixed]
      rfl
  · rw [State.requestRollback_fixed, State.refuse_fixed]

theorem State.capacityOutcome_fixed (h : HostAccess) (c : CtxNum) (q : Shortage) :
    (s.capacityOutcome h c q).fixed = s.fixed := by
  unfold State.capacityOutcome
  split
  · exact State.enterHold_fixed ..
  · exact State.enterHold_fixed ..
  · exact State.refuse_fixed ..
  · exact State.refuse_fixed ..
  · exact State.capacityAbort_fixed ..

theorem State.extendChain_fixed (c : CtxNum) (e : Epoch) : (s.extendChain c e).fixed = s.fixed := by
  unfold State.extendChain; split
  · rfl
  · simp only []; rw [State.lowWater_fixed, State.mapEpoch_fixed]; rfl

theorem State.startJournalled_fixed (h : HostAccess) (c : CtxNum) : (s.startJournalled h c).fixed = s.fixed := by
  unfold State.startJournalled; split
  · rfl
  · split
    · rw [State.capacityOutcome_fixed]; rfl
    · exact (State.extendChain_fixed ..).trans (State.insertClaim_fixed ..)

theorem State.startForwarded_fixed (h : HostAccess) : (s.startForwarded h).fixed = s.fixed := by
  unfold State.startForwarded; simp only []; split <;> rfl

theorem State.startHost_fixed (h : HostAccess) (r : Route) : (s.startHost h r).fixed = s.fixed := by
  unfold State.startHost; simp only []; split
  · split
    · exact State.startForwarded_fixed ..
    · exact State.startJournalled_fixed ..
  · rw [State.settle_fixed]; rfl

theorem State.startArming_fixed : s.startArming.fixed = s.fixed := by
  unfold State.startArming; split <;> rfl

theorem State.startTask_fixed (t : Task) : (s.startTask t).fixed = s.fixed := by
  unfold State.startTask; split <;> rfl

theorem State.evaluate_fixed (a : Addr) (v : Word) (w : Option CtxNum) (i : SrcNum) (b : Bool) (j : Fin 8) :
    (s.evaluate a v w i b j).fixed = s.fixed := by
  unfold State.evaluate
  simp only []
  split
  · split
    · rfl
    · split <;> split <;> rfl
  · rfl

theorem State.foldl_fixed {α : Type} (f : State → α → State) (h : ∀ t x, (f t x).fixed = t.fixed) (l : List α) :
    (l.foldl f s).fixed = s.fixed := by
  induction l generalizing s with
  | nil => rfl
  | cons x l ih => rw [List.foldl_cons, ih, h]

theorem State.evaluateAll_fixed (a : Addr) (v : Word) (w : Option CtxNum) (i : SrcNum) (b : Bool) :
    (s.evaluateAll a v w i b).fixed = s.fixed := s.foldl_fixed _ (fun t _ => t.evaluate_fixed ..) _

theorem State.raiseHit_fixed (h : GuardHit) : (s.raiseHit h).fixed = s.fixed := State.raise_fixed ..

theorem State.requestHit_fixed (h : GuardHit) : (s.requestHit h).fixed = s.fixed := by
  unfold State.requestHit; split
  · exact State.requestRollback_fixed ..
  · rfl

theorem State.reportHits_fixed (l : List GuardHit) : (s.reportHits l).fixed = s.fixed := by
  rw [State.reportHits, State.foldl_fixed _ _ fun t x => t.requestHit_fixed x,
    State.foldl_fixed _ _ fun t x => t.raiseHit_fixed x]

theorem State.creditRestore_fixed (c : CtxNum) (a : Addr) : (s.creditRestore c a).fixed = s.fixed := by
  rw [State.creditRestore, State.mapEpoch_fixed]; rfl

/-- What an access brings about on the chip is no part of memory or of the settings. -/
theorem State.mark_fixed (m : Mark) : (s.mark m).fixed = s.fixed := by
  unfold State.mark
  split
  · rfl
  · rfl
  · exact State.mapEpoch_fixed ..
  · exact State.mapEpoch_fixed ..
  · exact State.mapEpoch_fixed ..
  · exact State.creditRestore_fixed ..
  · exact State.evaluateAll_fixed ..

theorem State.faultJob_fixed (c : CtxNum) (p : SlotPos) (k : FaultKind) : (s.faultJob c p k).fixed = s.fixed := by
  unfold State.faultJob; split
  · rw [State.raise_fixed]; rfl
  · rfl

theorem State.finishRestore_fixed (c : CtxNum) (p : SlotPos) (j : Judged) (o : Bool) (l : List GuardHit) :
    (s.finishRestore c p j o l).fixed = s.fixed := by
  unfold State.finishRestore; simp only []; split
  · rw [State.faultJob_fixed]; rfl
  · rfl
  · rw [State.deliver_fixed, State.reportHits_fixed]; rfl

theorem State.finishReleasingMarker_fixed (c : CtxNum) : (s.finishReleasingMarker c).fixed = s.fixed := by
  rw [State.finishReleasingMarker, State.deliver_fixed]; rfl

theorem State.completionEvent_fixed (c : CtxNum) (p : Phase) (e : Epoch) : (s.completionEvent c p e).fixed = s.fixed := by
  unfold State.completionEvent; split
  · exact State.raise_fixed ..
  · exact State.raise_fixed ..
  · exact State.raise_fixed ..
  · rfl

theorem State.finishWrite_fixed (o : Option CtxNum) (l : List GuardHit) : (s.finishWrite o l).fixed = s.fixed := by
  unfold State.finishWrite; simp only []
  rw [State.reportHits_fixed]
  split
  · rw [State.reloadIdle_fixed]; rfl
  · rfl

theorem State.finishJournalled_fixed (w : Working) (l : List GuardHit) : (s.finishJournalled w l).fixed = s.fixed := by
  rw [State.finishJournalled, State.reportHits_fixed, State.reloadIdle_fixed]; rfl

theorem State.finishArming_fixed (i : Fin 8) (b : Bool) : (s.finishArming i b).fixed = s.fixed := by
  unfold State.finishArming; simp only []; split <;> rfl

theorem State.faultChain_fixed (c : CtxNum) (g : List LiveSeg) : (s.faultChain c g).fixed = s.fixed := by
  unfold State.faultChain; split
  · rfl
  · rw [State.raise_fixed]; rfl

theorem State.faultShort_fixed (c : CtxNum) (n k : Nat) (e : Epoch) : (s.faultShort c n k e).fixed = s.fixed := by
  rw [State.faultShort, State.raise_fixed]; rfl

theorem State.rebuildSlots_fixed (c : CtxNum) (e : Identity) (n k m : Nat) :
    (s.rebuildSlots c e n m k).fixed = s.fixed := by
  induction m generalizing s k with
  | zero => rfl
  | succ m ih =>
    have h : (s.rebuildSlot c e n k).fixed = s.fixed := by
      unfold State.rebuildSlot; simp only []; split
      · exact State.insertClaim_fixed ..
      · rfl
    exact (ih (s.rebuildSlot c e n k) (k + 1)).trans h

theorem State.hostStart_fixed (fits : Route → Bool → Bool) (t : State) (h : s.hostStart fits = some t) :
    t.fixed = s.fixed := by
  unfold State.hostStart at h
  split at h
  · split at h
    · split at h
      · cases h; exact State.startHost_fixed ..
      · cases h
    · cases h
  · cases h

/-- What the start of a given grant can do: nothing, free the port, or be the start step of its requester's row. -/
theorem State.startGiven_cases :
    (s.startGiven = s ∧ (s.grant ≠ none ∨ s.holder = none)) ∨
    (s.startGiven = s.freePort ∧ s.grant = none ∧ s.holder ≠ none) ∨
    (s.grant = none ∧ s.holder = some .hp ∧ s.hostStart (fun _ _ => true) = some s.startGiven) ∨
    (∃ t, s.grant = none ∧ s.holder = some .be ∧ s.dueTask = some t ∧ s.startGiven = s.startTask t) := by
  unfold State.startGiven
  split
  · next hg hh =>
    cases h : s.hostStart fun _ _ => true with
    | none => exact .inr (.inl ⟨rfl, hg, by simp [hh]⟩)
    | some t => exact .inr (.inr (.inl ⟨hg, hh, rfl⟩))
  · next hg hh =>
    cases h : s.dueTask with
    | none => exact .inr (.inl ⟨rfl, hg, by simp [hh]⟩)
    | some t => exact .inr (.inr (.inr ⟨t, hg, hh, rfl, rfl⟩))
  · next hg hh => exact .inr (.inl ⟨rfl, hg, by simp [hh]⟩)
  · next h1 h2 h3 =>
    refine .inl ⟨rfl, ?_⟩
    cases hg : s.grant with
    | some g => exact .inl nofun
    | none =>
      cases hh : s.holder with
      | none => exact .inr rfl
      | some r => cases r <;> simp_all

theorem State.startGiven_fixed : s.startGiven.fixed = s.fixed := by
  rcases s.startGiven_cases with ⟨h, -⟩ | ⟨h, -, -⟩ | ⟨-, -, h⟩ | ⟨t, -, -, -, h⟩
  · rw [h]
  · rw [h]; rfl
  · exact s.hostStart_fixed _ _ h
  · rw [h]; exact State.startTask_fixed ..

theorem State.freezeAccess_fixed : s.freezeAccess.fixed = s.fixed := by
  unfold State.freezeAccess; split
  · rfl
  · split
    · exact State.refuse_fixed ..
    · split
      · rfl
      · exact State.refuse_fixed ..

theorem State.tick_fixed : s.tick.fixed = s.fixed := by
  have h : ∀ (t : State) (c : CtxNum), (t.tickIdle c).fixed = t.fixed := by
    intro t c
    unfold State.tickIdle; split
    · split
      · rfl
      · split
        · exact State.requestRollback_fixed ..
        · rfl
    · rfl
  unfold State.tick; split
  · rw [State.arbitrate_fixed, State.foldl_fixed _ _ h]
    unfold State.tickHold; split
    · split
      · exact State.refuse_fixed ..
      · rfl
    · rfl
  · rfl

/-! ### A field of the fixed part -/

theorem State.mem_of_fixed {s t : State} (h : s.fixed = t.fixed) : s.mem = t.mem :=
  show s.fixed.mem = t.fixed.mem from congrArg State.mem h
theorem State.mode_of_fixed {s t : State} (h : s.fixed = t.fixed) : s.mode = t.mode :=
  show s.fixed.mode = t.fixed.mode from congrArg State.mode h
theorem State.work_of_fixed {s t : State} (h : s.fixed = t.fixed) : s.work = t.work :=
  show s.fixed.work = t.fixed.work from congrArg State.work h
theorem State.shortFrames_of_fixed {s t : State} (h : s.fixed = t.fixed) : s.shortFrames = t.shortFrames :=
  show s.fixed.shortFrames = t.fixed.shortFrames from congrArg State.shortFrames h
theorem State.stat0_of_fixed {s t : State} (h : s.fixed = t.fixed) : s.stat0 = t.stat0 :=
  show s.fixed.stat0 = t.fixed.stat0 from congrArg State.stat0 h
theorem State.stat1_of_fixed {s t : State} (h : s.fixed = t.fixed) : s.stat1 = t.stat1 :=
  show s.fixed.stat1 = t.fixed.stat1 from congrArg State.stat1 h
theorem State.pending_of_fixed {s t : State} (h : s.fixed = t.fixed) : s.pending = t.pending :=
  show s.fixed.pending = t.fixed.pending from congrArg State.pending h

/-- Outside a reset a frame has its effect (R140). -/
theorem State.frame_eq {s : State} (h : s.inReset = false) (f : State → State) : s.frame f = f s := by
  rw [State.frame, h]; rfl

/-- In a reset no frame is taken (R140). -/
theorem State.frame_reset {s : State} (h : s.inReset = true) (f : State → State) : s.frame f = s := by
  rw [State.frame, h]; rfl

/-! ### The host bus, the memory port, the guards and the claims -/

/-- The part of the state that accounting and the Context Table leave alone. -/
def State.aside (s : State) : State :=
  { State.reset with
    access := s.access, herr := s.herr, hd := s.hd, lastEnding := s.lastEnding, holder := s.holder,
    lastHolder := s.lastHolder, grant := s.grant, job := s.job, guards := s.guards, claims := s.claims }

theorem State.raise_aside (k ctx src code n a) : (s.raise k ctx src code n a).aside = s.aside := by
  unfold State.raise; split
  · split <;> rfl
  · rfl

theorem State.lowWater_aside (n : Nat) : (s.lowWater n).aside = s.aside := by
  unfold State.lowWater; split
  · exact s.raise_aside ..
  · rfl

theorem State.mapEpoch_aside (c : CtxNum) (f : Epoch → Epoch) : (s.mapEpoch c f).aside = s.aside := by
  unfold State.mapEpoch; split <;> rfl

theorem State.reloadIdle_aside (c : CtxNum) : (s.reloadIdle c).aside = s.aside := by
  unfold State.reloadIdle; split
  · split <;> rfl
  · rfl

theorem State.takeRollback_aside (c : CtxNum) (k : Cause) : (s.takeRollback c k).aside = s.aside := by
  unfold State.takeRollback; split
  · split
    · exact State.raise_aside ..
    · rfl
  · rfl

theorem State.takeCommit_aside (c : CtxNum) : (s.takeCommit c).aside = s.aside := by
  unfold State.takeCommit; split
  · split
    · exact State.raise_aside ..
    · rfl
  · rfl

theorem State.thresholdAbort_aside (b : Option CtxNum) : (s.thresholdAbort b).aside = s.aside := by
  unfold State.thresholdAbort; split
  · exact State.takeRollback_aside ..
  · rfl

theorem State.thresholdReached_aside (i : SrcNum) (g : Group) (b : Option CtxNum) :
    (s.thresholdReached i g b).aside = s.aside := by
  have h (b : Option CtxNum) :
      ((if (s.settings g).fence then s.setFence i true else s).thresholdAbort b).aside = s.aside := by
    rw [State.thresholdAbort_aside]
    split <;> rfl
  unfold State.thresholdReached
  simp only []
  split
  · rw [State.raise_aside]
    exact h _
  · exact h _

theorem State.countBound_aside (i : SrcNum) (g : Group) (b : Option CtxNum) : (s.countBound i g b).aside = s.aside := by
  unfold State.countBound
  simp only []
  split
  · rw [State.thresholdReached_aside]
    rfl
  · rfl

theorem State.count_aside (i : SrcNum) (g : Group) : (s.count i g).aside = s.aside := State.countBound_aside ..

theorem State.report_aside (i : SrcNum) (k : RefusalKind) : (s.report i k).aside = s.aside := by
  unfold State.report; split
  · exact State.count_aside ..
  · rfl

/-- A refusal ends the access with HERR asserted and takes nothing else from the bus or the port (R59). -/
theorem State.refuse_aside (a : Access) (k : RefusalKind) : (s.refuse a k).aside = (s.endRefused a k).aside :=
  State.report_aside ..

@[simp] theorem State.refuse_access (a : Access) (k : RefusalKind) : (s.refuse a k).access = none :=
  show (s.refuse a k).aside.access = none by rw [State.refuse_aside]; rfl
@[simp] theorem State.refuse_herr (a : Access) (k : RefusalKind) : (s.refuse a k).herr = true :=
  show (s.refuse a k).aside.herr = true by rw [State.refuse_aside]; rfl
@[simp] theorem State.refuse_hd (a : Access) (k : RefusalKind) : (s.refuse a k).hd = if a.write then s.hd else 0#32 :=
  show (s.refuse a k).aside.hd = _ by rw [State.refuse_aside]; rfl
@[simp] theorem State.refuse_lastEnding (a : Access) (k : RefusalKind) :
    (s.refuse a k).lastEnding = some (.refused k) :=
  show (s.refuse a k).aside.lastEnding = _ by rw [State.refuse_aside]; rfl
@[simp] theorem State.refuse_claims (a : Access) (k : RefusalKind) : (s.refuse a k).claims = s.claims :=
  show (s.refuse a k).aside.claims = _ by rw [State.refuse_aside]; rfl
@[simp] theorem State.refuse_guards (a : Access) (k : RefusalKind) : (s.refuse a k).guards = s.guards :=
  show (s.refuse a k).aside.guards = _ by rw [State.refuse_aside]; rfl
@[simp] theorem State.refuse_grant (a : Access) (k : RefusalKind) : (s.refuse a k).grant = s.grant :=
  show (s.refuse a k).aside.grant = _ by rw [State.refuse_aside]; rfl
@[simp] theorem State.refuse_holder (a : Access) (k : RefusalKind) : (s.refuse a k).holder = s.holder :=
  show (s.refuse a k).aside.holder = _ by rw [State.refuse_aside]; rfl
@[simp] theorem State.refuse_mem (a : Access) (k : RefusalKind) : (s.refuse a k).mem = s.mem :=
  State.mem_of_fixed (s.refuse_fixed a k)

/-- The arbiter changes the holder of the port alone (R76). -/
theorem State.arbitrate_eq : s.arbitrate = { s with holder := s.arbitrate.holder } := by
  unfold State.arbitrate; split
  · rfl
  · split <;> rfl

@[simp] theorem State.arbitrate_access : s.arbitrate.access = s.access := by rw [State.arbitrate_eq]
@[simp] theorem State.arbitrate_herr : s.arbitrate.herr = s.herr := by rw [State.arbitrate_eq]
@[simp] theorem State.arbitrate_hd : s.arbitrate.hd = s.hd := by rw [State.arbitrate_eq]
@[simp] theorem State.arbitrate_lastEnding : s.arbitrate.lastEnding = s.lastEnding := by rw [State.arbitrate_eq]
@[simp] theorem State.arbitrate_mem : s.arbitrate.mem = s.mem := by rw [State.arbitrate_eq]
@[simp] theorem State.arbitrate_contexts : s.arbitrate.contexts = s.contexts := by rw [State.arbitrate_eq]
@[simp] theorem State.arbitrate_sources : s.arbitrate.sources = s.sources := by rw [State.arbitrate_eq]
@[simp] theorem State.arbitrate_claims : s.arbitrate.claims = s.claims := by rw [State.arbitrate_eq]
@[simp] theorem State.arbitrate_pool : s.arbitrate.pool = s.pool := by rw [State.arbitrate_eq]
@[simp] theorem State.arbitrate_queue : s.arbitrate.queue = s.queue := by rw [State.arbitrate_eq]
@[simp] theorem State.arbitrate_job : s.arbitrate.job = s.job := by rw [State.arbitrate_eq]
@[simp] theorem State.arbitrate_events : s.arbitrate.events = s.events := by rw [State.arbitrate_eq]
@[simp] theorem State.arbitrate_guards : s.arbitrate.guards = s.guards := by rw [State.arbitrate_eq]
@[simp] theorem State.arbitrate_counters : s.arbitrate.counters = s.counters := by rw [State.arbitrate_eq]
@[simp] theorem State.arbitrate_grant : s.arbitrate.grant = s.grant := by rw [State.arbitrate_eq]
@[simp] theorem State.arbitrate_lastHolder : s.arbitrate.lastHolder = s.lastHolder := by rw [State.arbitrate_eq]
@[simp] theorem State.arbitrate_work : s.arbitrate.work = s.work := by rw [State.arbitrate_eq]
@[simp] theorem State.arbitrate_mode : s.arbitrate.mode = s.mode := by rw [State.arbitrate_eq]
@[simp] theorem State.arbitrate_epochSeq : s.arbitrate.epochSeq = s.epochSeq := by rw [State.arbitrate_eq]

end Sys2Proof.Machine
end

