-- ==== Sys2Proof/Laws/Memory.lean ====
section
/-! SUPPORT. The laws of the attached memory: a read after a write, and the canonical form kept by every write. -/

namespace Sys2Proof.Machine

/-! ### One byte -/

theorem Memory.byte_insert (m : List Host.Cell) (k : Nat) (b : Byte) (j : Nat)
    (h : ∀ c ∈ m, c.1 ≠ k) : Memory.byte (Memory.insert k b m) j = if j = k then b else Memory.byte m j := by
  induction m with
  | nil => simp [Memory.insert, Memory.byte, eq_comm]
  | cons c t ih =>
    obtain ⟨k', b'⟩ := c
    have hk : k' ≠ k := h (k', b') (by simp)
    have ht := ih fun c hc => h c (by simp [hc])
    unfold Memory.insert
    split
    · simp [Memory.byte, eq_comm]
    · simp only [Memory.byte, ht]
      by_cases h1 : k' = j <;> by_cases h2 : j = k <;> simp_all

theorem Memory.byte_filter_ne (m : List Host.Cell) (k j : Nat) :
    Memory.byte (m.filter (fun c => c.1 != k)) j = if j = k then Config.blankByte else Memory.byte m j := by
  induction m with
  | nil => simp [Memory.byte]
  | cons c t ih =>
    obtain ⟨k', b'⟩ := c
    by_cases h1 : k' = k
    · subst h1
      simp only [List.filter, bne_self_eq_false, ih, Memory.byte]
      by_cases h2 : j = k' <;> simp [h2, eq_comm]
    · have : (k' != k) = true := by simpa using h1
      simp only [List.filter, this, Memory.byte, ih]
      by_cases h2 : k' = j <;> by_cases h3 : j = k <;> simp_all

/-- A byte reads as it was last written, and every other byte as before. -/
theorem Memory.byte_putByte (m : List Host.Cell) (k : Nat) (b : Byte) (j : Nat) :
    Memory.byte (Memory.putByte m k b) j = if j = k then b else Memory.byte m j := by
  unfold Memory.putByte
  split
  · next h => simp only [Memory.byte_filter_ne, h]
  · rw [Memory.byte_insert _ _ _ _ (by simp), Memory.byte_filter_ne]
    split <;> rfl

/-! ### The canonical form -/

theorem Memory.wf_filter (m : List Host.Cell) (p : Host.Cell → Bool) (h : Memory.wf m = true) :
    Memory.wf (m.filter p) = true := by
  induction m with
  | nil => exact h
  | cons c t ih =>
    obtain ⟨k, b⟩ := c
    simp only [Memory.wf, Bool.and_eq_true, List.all_eq_true] at h
    simp only [List.filter]
    split
    · simp only [Memory.wf, Bool.and_eq_true, List.all_eq_true]
      exact ⟨⟨h.1.1, fun c hc => h.1.2 c (List.mem_of_mem_filter hc)⟩, ih h.2⟩
    · exact ih h.2

theorem Memory.mem_insert (k : Nat) (b : Byte) (m : List Host.Cell) (c : Host.Cell) :
    c ∈ Memory.insert k b m ↔ c = (k, b) ∨ c ∈ m := by
  induction m with
  | nil => simp [Memory.insert]
  | cons d t ih =>
    unfold Memory.insert
    split
    · simp
    · simp only [List.mem_cons, ih]
      tauto

theorem Memory.wf_insert (k : Nat) (b : Byte) (m : List Host.Cell) (h : Memory.wf m = true)
    (hb : b ≠ Config.blankByte) (hk : ∀ c ∈ m, c.1 ≠ k) : Memory.wf (Memory.insert k b m) = true := by
  induction m with
  | nil => simpa [Memory.insert, Memory.wf] using hb
  | cons d t ih =>
    obtain ⟨k', b'⟩ := d
    have hne : k' ≠ k := hk (k', b') (by simp)
    have h' := h
    simp only [Memory.wf, Bool.and_eq_true, List.all_eq_true, decide_eq_true_eq] at h'
    unfold Memory.insert
    split
    · next hlt =>
      simp only [Memory.wf, Bool.and_eq_true, List.all_eq_true, decide_eq_true_eq]
      refine ⟨⟨by simpa using hb, ?_⟩, by simpa [Memory.wf] using h⟩
      intro c hc
      rcases List.mem_cons.1 hc with rfl | hc
      · exact hlt
      · exact lt_trans hlt (h'.1.2 c hc)
    · next hge =>
      simp only [Memory.wf, Bool.and_eq_true, List.all_eq_true, decide_eq_true_eq]
      refine ⟨⟨h'.1.1, ?_⟩, ih h'.2 fun c hc => hk c (by simp [hc])⟩
      intro c hc
      rcases (Memory.mem_insert k b t c).1 hc with rfl | hc
      · exact lt_of_le_of_ne (not_lt.1 hge) hne
      · exact h'.1.2 c hc

/-- Writing a byte keeps the canonical form. -/
theorem Memory.wf_putByte (m : List Host.Cell) (k : Nat) (b : Byte) (h : Memory.wf m = true) :
    Memory.wf (Memory.putByte m k b) = true := by
  unfold Memory.putByte
  split
  · exact Memory.wf_filter _ _ h
  · next hb => exact Memory.wf_insert _ _ _ (Memory.wf_filter _ _ h) hb (by simp)

theorem Memory.wf_putLane (a : Addr) (be : BitVec 4) (w : Word) (i : Nat) (m : List Host.Cell)
    (h : Memory.wf m = true) : Memory.wf (Memory.putLane a be w i m) = true := by
  unfold Memory.putLane
  split
  · exact Memory.wf_putByte _ _ _ h
  · exact h

/-- Writing a word keeps the canonical form. -/
theorem Memory.wf_putWord (m : List Host.Cell) (a : Addr) (be : BitVec 4) (w : Word) (h : Memory.wf m = true) :
    Memory.wf (Memory.putWord m a be w) = true :=
  Memory.wf_putLane _ _ _ _ _ (Memory.wf_putLane _ _ _ _ _ (Memory.wf_putLane _ _ _ _ _ (Memory.wf_putLane _ _ _ _ _ h)))

/-- Memory with nothing listed is in canonical form. -/
theorem Memory.wf_nil : Memory.wf [] = true := rfl

/-! ### One word -/

theorem Memory.byte_putLane (a : Addr) (be : BitVec 4) (w : Word) (i : Nat) (m : List Host.Cell) (j : Nat) :
    Memory.byte (Memory.putLane a be w i m) j =
      if be.getLsbD i = true ∧ j = byteKey a i then byteOf w i else Memory.byte m j := by
  unfold Memory.putLane
  by_cases h : be.getLsbD i = true <;> simp [h, Memory.byte_putByte]

theorem byteKey_inj {a b : Addr} {i j : Nat} (hi : i < 4) (hj : j < 4) (h : byteKey a i = byteKey b j) :
    a = b ∧ i = j := by
  unfold byteKey at h
  exact ⟨BitVec.eq_of_toNat_eq (by omega), by omega⟩

/-- Byte `j` of the word at `b` after a word write at `a` (R67): an enabled byte of the written word reads as
written, and every other byte as before. -/
theorem Memory.byte_putWord (m : List Host.Cell) (a b : Addr) (be : BitVec 4) (w : Word) (j : Nat) (hj : j < 4) :
    Memory.byte (Memory.putWord m a be w) (byteKey b j) =
      if b = a ∧ be.getLsbD j = true then byteOf w j else Memory.byte m (byteKey b j) := by
  have key : ∀ i, i < 4 → (byteKey b j = byteKey a i ↔ b = a ∧ j = i) := fun i hi =>
    ⟨byteKey_inj hj hi, fun h => by rw [h.1, h.2]⟩
  unfold Memory.putWord
  simp only [Memory.byte_putLane, key 0 (by omega), key 1 (by omega), key 2 (by omega), key 3 (by omega)]
  by_cases hb : b = a
  · subst hb
    obtain rfl | rfl | rfl | rfl : j = 0 ∨ j = 1 ∨ j = 2 ∨ j = 3 := by omega
    all_goals simp
  · simp [hb]

/-- The word at another address is unchanged by a word write. -/
theorem Memory.word_putWord_ne (m : List Host.Cell) {a b : Addr} (be : BitVec 4) (w : Word) (h : b ≠ a) :
    Memory.word (Memory.putWord m a be w) b = Memory.word m b := by
  simp [Memory.word, Memory.byte_putWord, h]

theorem byteOf_append (b3 b2 b1 b0 : Byte) :
    byteOf (b3 ++ b2 ++ b1 ++ b0) 0 = b0 ∧ byteOf (b3 ++ b2 ++ b1 ++ b0) 1 = b1 ∧
      byteOf (b3 ++ b2 ++ b1 ++ b0) 2 = b2 ∧ byteOf (b3 ++ b2 ++ b1 ++ b0) 3 = b3 := by
  refine ⟨?_, ?_, ?_, ?_⟩ <;>
    · ext i hi
      simp only [byteOf, BitVec.getElem_extractLsb', BitVec.getLsbD_append]
      interval_cases i <;> simp [BitVec.getLsbD_eq_getElem]

theorem byteOf_word (m : List Host.Cell) (a : Addr) (i : Nat) (hi : i < 4) :
    byteOf (Memory.word m a) i = Memory.byte m (byteKey a i) := by
  have := byteOf_append (Memory.byte m (byteKey a 3)) (Memory.byte m (byteKey a 2)) (Memory.byte m (byteKey a 1))
    (Memory.byte m (byteKey a 0))
  obtain rfl | rfl | rfl | rfl : i = 0 ∨ i = 1 ∨ i = 2 ∨ i = 3 := by omega
  exacts [this.1, this.2.1, this.2.2.1, this.2.2.2]

/-- The word written reads as the merge of the old word and the enabled bytes (R67, R88, R121). -/
theorem Memory.word_putWord_self (m : List Host.Cell) (a : Addr) (be : BitVec 4) (w : Word) :
    Memory.word (Memory.putWord m a be w) a = mergeBytes be (Memory.word m a) w := by
  have h0 := byteOf_word m a 0 (by omega)
  have h1 := byteOf_word m a 1 (by omega)
  have h2 := byteOf_word m a 2 (by omega)
  have h3 := byteOf_word m a 3 (by omega)
  rw [mergeBytes, h0, h1, h2, h3, Memory.word]
  simp [Memory.byte_putWord]

theorem append_byteOf (w : Word) : byteOf w 3 ++ byteOf w 2 ++ byteOf w 1 ++ byteOf w 0 = w := by
  ext i hi
  simp only [byteOf, BitVec.getElem_append, BitVec.getElem_extractLsb']
  interval_cases i <;> simp [BitVec.getLsbD_eq_getElem]

/-- A write with all four byte enables reads back whole. -/
theorem Memory.word_putWord_all (m : List Host.Cell) (a : Addr) (w : Word) :
    Memory.word (Memory.putWord m a 0xF#4 w) a = w := by
  rw [Memory.word_putWord_self, mergeBytes]
  simp [append_byteOf]

/-! ### The same for the state -/

theorem State.word_store_ne (s : State) {a b : Addr} (be : BitVec 4) (w : Word) (h : b ≠ a) :
    (s.store a be w).word b = s.word b := Memory.word_putWord_ne _ _ _ h

theorem State.word_store_self (s : State) (a : Addr) (be : BitVec 4) (w : Word) :
    (s.store a be w).word a = mergeBytes be (s.word a) w := Memory.word_putWord_self _ _ _ _

theorem State.word_store_all (s : State) (a : Addr) (w : Word) : (s.store a 0xF#4 w).word a = w :=
  Memory.word_putWord_all _ _ _

/-- A word read depends on memory alone. -/
theorem State.word_congr {s t : State} (h : s.mem = t.mem) (a : Addr) : s.word a = t.word a := by
  rw [State.word, State.word, h]

end Sys2Proof.Machine
end

