-- ==== Sys2Proof/Laws/Operands.lean ====
section
/-! SUPPORT. What each operand check accepts, and the value it gives. -/

namespace Sys2Proof.Machine

theorem asCtx_of {b : Byte} {c : CtxNum} (h : b.toNat = c.val) : asCtx b = some c := by
  unfold asCtx; rw [dif_pos (by omega)]; congr 1; exact Fin.ext h

theorem asCtx_none {b : Byte} (h : 7 < b.toNat) : asCtx b = none := by unfold asCtx; rw [dif_neg (by omega)]

theorem asEight_of {b : Byte} {c : CtxNum} (h : b.toNat = c.val) : asEight b = some c := by
  unfold asEight; rw [dif_pos (by omega)]; congr 1; exact Fin.ext h

theorem asEight_none {b : Byte} (h : 7 < b.toNat) : asEight b = none := by unfold asEight; rw [dif_neg (by omega)]

theorem asSource_of {b : Byte} {c : SrcNum} (h : b.toNat = c.val) : asSource b = some c := by
  unfold asSource; rw [dif_pos (by omega)]; congr 1; exact Fin.ext h

theorem asSource_none {b : Byte} (h : 3 < b.toNat) : asSource b = none := by unfold asSource; rw [dif_neg (by omega)]

theorem asSixteen_of (b : Byte) (h : b.toNat < 16) : asSixteen b = some ⟨b.toNat, h⟩ := by simp [asSixteen, h]

theorem asSixteen_none (b : Byte) (h : 15 < b.toNat) : asSixteen b = none := by simp [asSixteen]; omega

theorem asBool_iff (b : Byte) : asBool b = if b.toNat ≤ 1 then some (b.toNat == 1) else none := by
  unfold asBool
  have h0 : b = 0#8 ↔ b.toNat = 0 := by simp [BitVec.toNat_eq]
  have h1 : b = 1#8 ↔ b.toNat = 1 := by simp [BitVec.toNat_eq]
  simp only [h0, h1]
  rcases Nat.lt_or_ge 1 b.toNat with h | h
  · rw [if_neg (by omega), if_neg (by omega), if_neg (by omega)]
  · interval_cases b.toNat <;> rfl

theorem byte_eq_iff (b : Byte) (k : Nat) (hk : k < 256) : b = BitVec.ofNat 8 k ↔ b.toNat = k := by
    constructor
    · rintro rfl; simp; omega
    · intro h; rw [← h]; simp

theorem asRegionMode_iff (b : Byte) :
    asRegionMode b =
      if b.toNat ≤ 3 then some (match b.toNat with | 0 => .pass | 1 => .journal | 2 => .journalRequired | _ => .readonly)
      else none := by
  unfold asRegionMode
  have h (k : Nat) (hk : k < 256) : b = BitVec.ofNat 8 k ↔ b.toNat = k := by
    constructor
    · rintro rfl; simp; omega
    · intro h; rw [← h]; simp
  simp only [h 0 (by omega), h 1 (by omega), h 2 (by omega), h 3 (by omega)]
  rcases Nat.lt_or_ge 3 b.toNat with h | h
  · rw [if_neg (by omega), if_neg (by omega), if_neg (by omega), if_neg (by omega), if_neg (by omega)]
  · interval_cases b.toNat <;> rfl

theorem asAddr_iff (x : WideAddr) :
    asAddr x = if x.toNat ≤ 0x3FFFFF then some (BitVec.ofNat 22 x.toNat) else none := by
  have hw : x.setWidth 22 = BitVec.ofNat 22 x.toNat := by apply BitVec.eq_of_toNat_eq; simp
  rw [asAddr, hw]

theorem asRegion_iff (en mo : Byte) (b l : WideAddr) :
    asRegion en mo b l = if en.toNat ≤ 1 ∧ mo.toNat ≤ 3 ∧ b.toNat ≤ l.toNat ∧ l.toNat ≤ 0x3FFFFF then
    some ⟨en.toNat == 1, (match mo.toNat with | 0 => .pass | 1 => .journal | 2 => .journalRequired | _ => .readonly),
      BitVec.ofNat 22 b.toNat, BitVec.ofNat 22 l.toNat⟩ else none := by
  unfold asRegion; rw [asBool_iff, asRegionMode_iff, asAddr_iff, asAddr_iff]
  by_cases h1 : en.toNat ≤ 1
  swap
  · simp [h1]
  by_cases h2 : mo.toNat ≤ 3
  swap
  · simp [h2]
  by_cases h3 : b.toNat ≤ 0x3FFFFF
  swap
  · have : ¬ (en.toNat ≤ 1 ∧ mo.toNat ≤ 3 ∧ b.toNat ≤ l.toNat ∧ l.toNat ≤ 0x3FFFFF) := by omega
    simp only [if_neg this, if_neg h3]; simp
  by_cases h4 : l.toNat ≤ 0x3FFFFF
  swap
  · simp [h4]
  rw [if_pos h1, if_pos h2, if_pos h3, if_pos h4]
  simp only [Option.bind_eq_bind, Option.bind_some]
  have e1 : (BitVec.ofNat 22 b.toNat).toNat = b.toNat := by simp; omega
  have e2 : (BitVec.ofNat 22 l.toNat).toNat = l.toNat := by simp; omega
  rw [e1, e2]
  by_cases h5 : b.toNat ≤ l.toNat
  · rw [if_pos h5, if_pos ⟨h1, h2, h5, h4⟩]
  · rw [if_neg h5, if_neg (by omega)]

theorem asTrigger_iff (b : Byte) :
    asTrigger b =
      if b.toNat ≤ 2 then some (match b.toNat with | 0 => .onBreak | 1 => .onMake | _ => .onBoth) else none := by
  unfold asTrigger
  simp only [byte_eq_iff b 0 (by omega), byte_eq_iff b 1 (by omega), byte_eq_iff b 2 (by omega)]
  rcases Nat.lt_or_ge 2 b.toNat with h | h
  · rw [if_neg (by omega), if_neg (by omega), if_neg (by omega), if_neg (by omega)]
  · interval_cases b.toNat <;> rfl

theorem asAction_iff (b : Byte) :
    asAction b =
      if b.toNat ≤ 2 then some (match b.toNat with | 0 => .note | 1 => .rollbackWriter | _ => .holdCommit) else none := by
  unfold asAction
  simp only [byte_eq_iff b 0 (by omega), byte_eq_iff b 1 (by omega), byte_eq_iff b 2 (by omega)]
  rcases Nat.lt_or_ge 2 b.toNat with h | h
  · rw [if_neg (by omega), if_neg (by omega), if_neg (by omega), if_neg (by omega)]
  · interval_cases b.toNat <;> rfl

theorem asBound_iff (b : Byte) :
    asBound b = if b.toNat ≤ 8 then some (if h : b.toNat < 8 then some ⟨b.toNat, h⟩ else none) else none := by
  unfold asBound asCtx
  simp only [byte_eq_iff b 8 (by omega)]
  rcases Nat.lt_or_ge 8 b.toNat with h | h
  · rw [if_neg (by omega), if_neg (by omega), dif_neg (by omega)]; rfl
  · rcases Nat.lt_or_ge b.toNat 8 with h' | h'
    · rw [if_neg (by omega), if_pos h, dif_pos h']; rfl
    · rw [if_pos (by omega), if_pos h, dif_neg (by omega)]

theorem asGuard_iff (en : Byte) (a : WideAddr) (v m : Word) (tr ac bo : Byte) :
   asGuard en a v m tr ac bo = if en.toNat ≤ 1 ∧ a.toNat ≤ 0x3FFFFF ∧ tr.toNat ≤ 2 ∧ ac.toNat ≤ 2 ∧ bo.toNat ≤ 8 then
    some ⟨en.toNat == 1, BitVec.ofNat 22 a.toNat, v, m,
          (match tr.toNat with | 0 => .onBreak | 1 => .onMake | _ => .onBoth),
          (match ac.toNat with | 0 => .note | 1 => .rollbackWriter | _ => .holdCommit),
          (if h : bo.toNat < 8 then some ⟨bo.toNat, h⟩ else none),
              if en.toNat = 1 then .arming else .unarmed⟩ else none := by
  unfold asGuard; rw [asBool_iff, asAddr_iff, asTrigger_iff, asAction_iff, asBound_iff]
  by_cases h1 : en.toNat ≤ 1
  swap
  · simp [h1]
  by_cases h2 : a.toNat ≤ 0x3FFFFF
  swap
  · simp [h2]
  by_cases h3 : tr.toNat ≤ 2
  swap
  · simp [h3]
  by_cases h4 : ac.toNat ≤ 2
  swap
  · simp [h4]
  by_cases h5 : bo.toNat ≤ 8
  swap
  · simp [h5]
  rw [if_pos h1, if_pos h2, if_pos h3, if_pos h4, if_pos h5, if_pos ⟨h1, h2, h3, h4, h5⟩]
  simp

theorem asLimits_iff (q c h i : BitVec 16) (j l t : Byte) : asLimits q c j h i l t =
   if (1 ≤ q.toNat ∧ q.toNat ≤ 256 ∧ 1 ≤ c.toNat ∧ c.toNat ≤ 512 ∧ j.toNat ≤ 2 ∧ 1 ≤ h.toNat ∧ h.toNat ≤ 4095 ∧
       1 ≤ t.toNat) then
     some ⟨q.toNat, c.toNat, if j.toNat = 0 then .hold else if j.toNat = 1 then .refuse else .abort, h.toNat,
         i.toNat, l.toNat, t.toNat⟩ else none := by
  have hj : asJFull j = if j.toNat = 0 then some .hold else if j.toNat = 1 then some .refuse else if j.toNat =
      2 then some .abort else none := by
    simp [asJFull, BitVec.toNat_eq]
  unfold asLimits; rw [hj]
  by_cases h0 : j.toNat = 0
  · simp [h0]
  by_cases h1 : j.toNat = 1
  · simp [h1]
  by_cases h2 : j.toNat = 2
  · simp [h2]
  · have : ¬ j.toNat ≤ 2 := by omega
    simp [h0, h1, h2, this]

theorem eventMask_iff (m : BitVec 16) :
    m &&& 0xFC01#16 = 0#16 ↔ (m.getLsbD 0 = false ∧ ∀ k, 10 ≤ k → m.getLsbD k = false) := by
  constructor
  · intro h
    have hk : ∀ k, (m &&& 0xFC01#16).getLsbD k = false := by simp [h]
    refine ⟨?_, ?_⟩
    · have := hk 0; simpa using this
    · intro k h10
      by_cases h16 : k < 16
      · have := hk k; interval_cases k <;> simpa using this
      · simp [BitVec.getLsbD_of_ge _ _ (not_lt.1 h16)]
  · rintro ⟨h0, h1⟩
    ext k hk
    simp only [BitVec.getElem_and]
    by_cases h10 : 10 ≤ k
    · have := h1 k h10; rw [BitVec.getLsbD_eq_getElem hk] at this; simp [this]
    · interval_cases k <;> simp_all [BitVec.getLsbD_eq_getElem]

theorem asGeometry_eq (j : WideAddr) (n : BitVec 16) :
    asGeometry j n = if j.toNat % 64 = 0 ∧ 16 ≤ n.toNat ∧ n.toNat ≤ 256 ∧
      j.toNat + n.toNat * 64 ≤ 4194304 then some (BitVec.ofNat 22 j.toNat, n.toNat) else none := by
  unfold asGeometry asAddr
  have hw : j.setWidth 22 = BitVec.ofNat 22 j.toNat := by apply BitVec.eq_of_toNat_eq; simp
  by_cases h : j.toNat ≤ 0x3FFFFF
  · simp only [if_pos h, Option.bind_eq_bind, Option.bind_some, hw]
    have : (BitVec.ofNat 22 j.toNat).toNat = j.toNat := by simp; omega
    rw [this]; rfl
  · simp only [if_neg h]
    have : ¬ (j.toNat % 64 = 0 ∧ 16 ≤ n.toNat ∧ n.toNat ≤ 256 ∧ j.toNat + n.toNat * 64 ≤ 4194304) := by omega
    simp [this]

end Sys2Proof.Machine
end

