-- ==== Sys2Proof/Laws/Ops.lean ====
section
/-! SUPPORT. What the shared operations answer: tables after an update, the searches and conditions of the commands, counters and fences, consistent chains. -/

namespace Sys2Proof.Machine

theorem eight_mem (c : Fin 8) : c ∈ eight := by revert c; decide

theorem four_mem (c : Fin 4) : c ∈ four := by revert c; decide

theorem Context.isFree_iff (x : Context) : x.isFree = true ↔ x = .free := by cases x <;> simp [Context.isFree]

theorem Context.isOpen_false (x : Context) (h : ∀ t e, x ≠ .active (.opened t) e) : x.isOpen = false := by
  cases x with
  | free => rfl
  | active p e => cases p <;> first | rfl | exact absurd rfl (h _ _)

theorem State.quiet_iff (s : State) : s.quiet = true ↔ (∀ c, s.ctx c = .free) ∧ s.queue = [] := by
  unfold State.quiet
  simp only [Bool.and_eq_true, List.all_eq_true, List.isEmpty_iff]
  constructor
  · rintro ⟨h, q⟩; refine ⟨fun c => ?_, q⟩
    have := h c (eight_mem c); revert this; cases s.ctx c <;> simp [Context.isFree]
  · rintro ⟨h, q⟩; exact ⟨fun c _ => by simp [h c, Context.isFree], q⟩

theorem State.quiet_false (s : State) (h : (∃ c, s.ctx c ≠ .free) ∨ s.queue ≠ []) : s.quiet = false := by
  rw [Bool.eq_false_iff, Ne, State.quiet_iff]; rintro ⟨h1, h2⟩
  rcases h with ⟨c, hc⟩ | h
  · exact hc (h1 c)
  · exact h h2

theorem State.setCtx_ctx (s : State) (i j : CtxNum) (x : Context) :
    (s.setCtx i x).ctx j = if j = i then x else s.ctx j := by
  simp only [State.ctx, State.setCtx_contexts, Fin.getElem_fin, Vector.getElem_set]
  by_cases h : j = i
  · subst h; simp
  · have : ¬ i.val = j.val := fun h3 => h (Fin.ext h3.symm)
    simp [h, this]

theorem State.setSource_source (s : State) (i j : SrcNum) (x : Source) :
    (s.setSource i x).source j = if j = i then x else s.source j := by
  simp only [State.source, State.setSource_sources, Fin.getElem_fin, Vector.getElem_set]
  by_cases h : j = i
  · subst h; simp
  · have : ¬ i.val = j.val := fun h3 => h (Fin.ext h3.symm)
    simp [h, this]

theorem State.freeContext_some (s : State) (c : CtxNum) (h : s.ctx c = .free) (hl : ∀ d < c, s.ctx d ≠ .free) :
    s.freeContext = some c := by
  unfold State.freeContext
  have gen : ∀ (p : Fin 8 → Bool) (i : Fin 8), p i = true → (∀ j < i, ¬ p j = true) → eight.find? p = some i := by
    intro p i hp hlt
    rw [List.find?_eq_some_iff_append]
    refine ⟨hp, ?_⟩
    have : ∃ as bs, eight = as ++ i :: bs ∧ ∀ a ∈ as, a < i := by
      clear hp hlt p
      refine ⟨eight.take i.val, eight.drop (i.val+1), ?_, ?_⟩ <;> revert i <;> decide
    obtain ⟨as, bs, h, h'⟩ := this
    exact ⟨as, bs, h, fun a ha => by simpa using hlt a (h' a ha)⟩
  exact gen _ c ((Context.isFree_iff _).2 h) (fun d hd hf => hl d hd ((Context.isFree_iff _).1 hf))

theorem State.freeContext_none (s : State) (h : ∀ c, s.ctx c ≠ .free) : s.freeContext = none := by
  unfold State.freeContext; rw [List.find?_eq_none]; intro c _ hc; exact h c ((Context.isFree_iff _).1 hc)

theorem State.freeContext_exists (s : State) (h : ∃ c, s.ctx c = .free) : ∃ c, s.freeContext = some c := by
  obtain ⟨c, h⟩ := h
  cases hf : s.freeContext with
  | some d => exact ⟨d, rfl⟩
  | none =>
    unfold State.freeContext at hf
    rw [List.find?_eq_none] at hf
    exact absurd ((Context.isFree_iff _).2 h) (hf c (eight_mem c))

theorem State.movesLate_iff (s : State) (i : Fin 8) : s.movesLate i = true ↔ ∃ g, s.grant = some g ∧ i ∈ g.late := by
  unfold State.movesLate
  cases s.grant <;> simp

theorem State.offMatch_iff (s : State) (i : Fin 8) :
    s.offMatch i = true ↔ (s.guard i).state = .arming ∨ ((s.guard i).state = .isMismatch ∧ s.movesLate i = false) ∨
      ((s.guard i).state = .isMatch ∧ s.movesLate i = true) := by
  unfold State.offMatch
  cases (s.guard i).state <;> simp

theorem State.guardHeld_iff (s : State) (c : CtxNum) : s.guardHeld c = true ↔ s.HoldsBack c := by
  unfold State.guardHeld State.HoldsBack
  simp only [← s.movesLate_iff, Bool.not_eq_true, List.any_eq_true, Bool.and_eq_true, Bool.or_eq_true, s.offMatch_iff,
    beq_iff_eq, Option.isNone_iff_eq_none, and_assoc]
  exact ⟨fun ⟨i, _, h⟩ => ⟨i, h⟩, fun ⟨i, h⟩ => ⟨i, eight_mem i, h⟩⟩

theorem State.isEmptyEpoch_iff (s : State) (c : CtxNum) : s.isEmptyEpoch c = decide (s.claimsHeld c = 0) := by
  unfold State.isEmptyEpoch; rw [Bool.beq_eq_decide_eq]

theorem queuePos_none (q : List QueueEntry) (c : CtxNum) (h : ∀ x ∈ q, x.ctx ≠ c) : queuePos q c = none := by
  induction q with
  | nil => rfl
  | cons x t ih => simp only [queuePos]; rw [if_neg (h x (by simp)), ih (fun y hy => h y (by simp [hy]))]; rfl

theorem queuePos_some (front back : List QueueEntry) (q : QueueEntry) (c : CtxNum)
    (h : q.ctx = c) (hf : ∀ x ∈ front, x.ctx ≠ c) :
    queuePos (front ++ q :: back) c = some (front.length + 1) := by
  induction front with
  | nil => simp [queuePos, h]
  | cons x t ih =>
    simp only [List.cons_append, queuePos]
    rw [if_neg (hf x (by simp)), ih (fun y hy => hf y (by simp [hy]))]
    rfl

theorem Region.covers_iff (r : Region) (a : Addr) :
    r.covers a = true ↔ (r.enable = true ∧ r.base.toNat ≤ a.toNat ∧ a.toNat ≤ r.limit.toNat) := by
  simp [Region.covers, and_assoc]

theorem Report.clears_iff (p : Report) (a : Access) (r : HoldReason) :
    p.clears a r = true ↔ ((r = .conflict ∧ a.addr ∈ p.released) ∨ (r = .claimFull ∧ p.released ≠ []) ∨ (r = .journalFull ∧ p.returned = true) ∨
        (a.write = true ∧ p.rebound = some a.src)) := by
  cases r <;> simp [Report.clears]

theorem State.deliver_none (s : State) (p : Report) (h : s.access = none) : s.deliver p = s := by
  unfold State.deliver; rw [h]

theorem Guard.agrees_iff (g : Guard) (v : Word) :
    g.agrees v = true ↔ ∀ k < 32, g.mask.getLsbD k = true → v.getLsbD k = g.expected.getLsbD k := by
  unfold Guard.agrees
  rw [beq_iff_eq]
  constructor
  · intro h k hk hm
    have := congrArg (fun x => x.getLsbD k) h
    simpa [hm] using this
  · intro h
    apply BitVec.eq_of_getLsbD_eq
    intro k hk
    simp only [BitVec.getLsbD_and]
    cases hm : g.mask.getLsbD k
    · simp
    · rw [h k hk hm]

theorem State.firstArming_some (s : State) (i : Fin 8) (h : (s.guard i).state = .arming)
    (hl : ∀ j < i, (s.guard j).state ≠ .arming) :
    s.firstArming = some i := by
  unfold State.firstArming
  have gen : ∀ (p : Fin 8 → Bool) (i : Fin 8), p i = true → (∀ j < i, ¬ p j = true) → eight.find? p = some i := by
    intro p i hp hlt
    rw [List.find?_eq_some_iff_append]
    refine ⟨hp, ?_⟩
    have : ∃ as bs, eight = as ++ i :: bs ∧ ∀ a ∈ as, a < i := by
      clear hp hlt p
      refine ⟨eight.take i.val, eight.drop (i.val+1), ?_, ?_⟩ <;> revert i <;> decide
    obtain ⟨as, bs, h, h'⟩ := this
    exact ⟨as, bs, h, fun a ha => by simpa using hlt a (h' a ha)⟩
  exact gen _ i (by simp [h]) (fun j hj => by simpa using hl j hj)

theorem State.raise_counters (s : State) (k ctx src code n a) :
    (s.raise k ctx src code n a).counters = s.counters := by
  unfold State.raise; split
  · split <;> rfl
  · rfl

theorem State.raise_contexts (s : State) (k ctx src code n a) :
    (s.raise k ctx src code n a).contexts = s.contexts := by
  unfold State.raise; split
  · split <;> rfl
  · rfl

theorem State.raise_sources (s : State) (k ctx src code n a) : (s.raise k ctx src code n a).sources = s.sources := by
  unfold State.raise; split
  · split <;> rfl
  · rfl

theorem State.raise_queue (s : State) (k ctx src code n a) : (s.raise k ctx src code n a).queue = s.queue := by
  unfold State.raise; split
  · split <;> rfl
  · rfl

theorem State.takeRollback_counters (s : State) (c : CtxNum) (k : Cause) :
    (s.takeRollback c k).counters = s.counters := by
  unfold State.takeRollback; split
  · split
    · rw [State.raise_counters]; rfl
    · rfl
  · rfl

theorem State.thresholdAbort_counters (s : State) (b : Option CtxNum) : (s.thresholdAbort b).counters = s.counters := by
  unfold State.thresholdAbort
  split
  · rw [State.takeRollback_counters]
  · rfl

theorem State.thresholdReached_counters (s : State) (i : SrcNum) (g : Group) (b : Option CtxNum) :
    (s.thresholdReached i g b).counters = s.counters := by
  have h (b : Option CtxNum) :
      ((if (s.settings g).fence then s.setFence i true else s).thresholdAbort b).counters = s.counters := by
    rw [State.thresholdAbort_counters]
    split <;> rfl
  unfold State.thresholdReached
  simp only []
  split
  · rw [State.raise_counters]
    exact h _
  · exact h _

theorem State.countBound_counters (s : State) (i : SrcNum) (g : Group) (b : Option CtxNum) :
    (s.countBound i g b).counters = (s.setCounter i g ⟨nextCount (s.settings g).holdMode (s.counter i g).value,
      (s.counter i g).reached || s.reaches i g⟩).counters := by
  unfold State.countBound
  simp only []
  split
  · rw [State.thresholdReached_counters]
  · rfl

theorem State.count_counters (s : State) (i : SrcNum) (g : Group) :
    (s.count i g).counters = (s.setCounter i g ⟨nextCount (s.settings g).holdMode (s.counter i g).value,
      (s.counter i g).reached || s.reaches i g⟩).counters := s.countBound_counters ..

theorem State.counter_of_counters (s t : State) (h : s.counters = t.counters) (i : SrcNum) (g : Group) :
    s.counter i g = t.counter i g := by
  unfold State.counter; rw [h]

theorem Group.index_inj :
    ∀ g h : Group, g.index = h.index → g = h := by intro g h; cases g <;> cases h <;> simp [Group.index]

theorem State.setCounter_counter (s : State) (i j : SrcNum) (g h : Group) (x : Counter) :
    (s.setCounter i g x).counter j h = if j = i ∧ h = g then x else s.counter j h := by
  have e : ((s.counters.set i (s.counters[i].set g.index x))[j])[h.index] = if j = i ∧
      h = g then x else (s.counters[j])[h.index] := by
    simp only [Fin.getElem_fin, Vector.getElem_set]
    by_cases h1 : j = i
    · subst h1
      by_cases h2 : h = g
      · subst h2; simp
      · have : ¬ g.index.val = h.index.val := fun h3 => h2 (Group.index_inj _ _ (Fin.ext h3.symm))
        simp [h2, this]
    · have : ¬ i.val = j.val := fun h3 => h1 (Fin.ext h3.symm)
      simp [h1, this]
  exact e

theorem nextCount_eq (m : HoldMode) (v : Byte) :
    nextCount m v = if v ≠ 255#8 then v + 1#8 else if m = .saturate then 255#8 else 0#8 := by
  unfold nextCount; cases m <;> by_cases h : v = 255#8 <;> simp [h]

theorem State.count_counter (s : State) (i : SrcNum) (g : Group) :
    (s.count i g).counter i g = ⟨nextCount (s.settings g).holdMode (s.counter i g).value,
      (s.counter i g).reached || s.reaches i g⟩ := by
  rw [State.counter_of_counters _ _ (State.count_counters s i g), State.setCounter_counter]; simp

theorem State.reaches_iff (s : State) (i : SrcNum) (g : Group) : s.reaches i g = true ↔
   (((s.counter i g).value ≠ 255#8 ∨ (s.settings g).holdMode = .roll) ∧
       (if (s.counter i g).value ≠ 255#8 then (s.counter i g).value + 1#8 else if (s.settings g).holdMode =
       .saturate then 255#8 else 0#8) = (s.settings g).threshold) := by
  simp only [State.reaches, Bool.and_eq_true, beq_iff_eq, nextCount_eq, isJudged, Bool.or_eq_true, bne_iff_ne]

theorem State.takeRollback_fenced (s : State) (c : CtxNum) (k : Cause) (i : SrcNum) :
    ((s.takeRollback c k).source i).fenced = (s.source i).fenced := by
  have unbound : ∀ (t : State) (j : SrcNum), ((t.bind j none).source i).fenced = (t.source i).fenced := by
    intro t j
    rw [State.bind, State.setSource_source]
    split
    · next h => rw [h]
    · rfl
  have raised : ∀ (t : State) (k : EventKind) (c x d n a), (t.raise k c x d n a).source i = t.source i := by
    intro t k c x d n a
    unfold State.source
    rw [State.raise_sources]
  unfold State.takeRollback
  split
  · split
    · rw [raised, State.freeEmpty, unbound]
      rfl
    · exact unbound _ _
  · rfl

theorem State.thresholdAbort_fenced (s : State) (b : Option CtxNum) (i : SrcNum) :
    ((s.thresholdAbort b).source i).fenced = (s.source i).fenced := by
  unfold State.thresholdAbort; split
  · exact State.takeRollback_fenced ..
  · rfl

/-! ### Recovery -/

/-- What `isRun` says: the chain indices rise by one from `j` on (R147). -/
theorem isRun_iff (j : Nat) (g : List LiveSeg) : isRun j g = true ↔ ∀ k y, g[k]? = some y → y.idx = j + k := by
  induction g generalizing j with
  | nil => simp [isRun]
  | cons x t ih =>
    simp only [isRun, Bool.and_eq_true, beq_iff_eq, ih]
    constructor
    · rintro ⟨hx, ht⟩ k y h
      cases k with
      | zero => cases h; simpa using hx
      | succ k => have := ht k y h; omega
    · intro h
      exact ⟨h 0 x rfl, fun k y hk => by have := h (k + 1) y hk; omega⟩

/-- A group is a consistent chain when it is not empty, its headers agree with the first and its chain indices form one
unbroken run (R147). -/
theorem isConsistent_iff (g : List LiveSeg) :
    isConsistent g = true ↔
      ∃ x, g.head? = some x ∧ (∀ y ∈ g, y.src = x.src ∧ y.seq = x.seq) ∧ (∀ k y, g[k]? = some y → y.idx = x.idx + k) := by
  cases g with
  | nil => simp [isConsistent]
  | cons x t => simp [isConsistent, isRun_iff]

end Sys2Proof.Machine
end

