-- ==== Sys2Proof/Laws/Records.lean ====
section
/-! SUPPORT. What the accesses of a grant do to memory: addresses of slots, the effect of a plan, and the four writes that make a record. -/

namespace Sys2Proof.Machine

/-! ### Bytes outside a list of words -/

theorem Memory.SameOutside.refl (m : List Host.Cell) (l : List Addr) : Memory.SameOutside m m l := fun _ _ => rfl

theorem Memory.SameOutside.trans {m m' m'' : List Host.Cell} {l : List Addr} (h : Memory.SameOutside m m' l)
    (h' : Memory.SameOutside m' m'' l) : Memory.SameOutside m m'' l := fun k hk => by rw [h' k hk, h k hk]

theorem Memory.SameOutside.mono {m m' : List Host.Cell} {l l' : List Addr} (h : Memory.SameOutside m m' l)
    (hl : ∀ a ∈ l, a ∈ l') : Memory.SameOutside m m' l' := fun k hk => h k fun a ha => hk a (hl a ha)

/-- One word write leaves every byte outside its word. -/
theorem Memory.sameOutside_putWord (m : List Host.Cell) (a : Addr) (be : BitVec 4) (w : Word) {l : List Addr}
    (ha : a ∈ l) : Memory.SameOutside m (Memory.putWord m a be w) l := by
  intro k hk
  simp only [Memory.putWord, Memory.byte_putLane]
  rw [if_neg (by rintro ⟨-, h⟩; exact hk a ha 3 (by omega) h), if_neg (by rintro ⟨-, h⟩; exact hk a ha 2 (by omega) h),
    if_neg (by rintro ⟨-, h⟩; exact hk a ha 1 (by omega) h), if_neg (by rintro ⟨-, h⟩; exact hk a ha 0 (by omega) h)]

/-- A word outside the list reads as before. -/
theorem Memory.SameOutside.word {m m' : List Host.Cell} {l : List Addr} (h : Memory.SameOutside m m' l) {a : Addr}
    (ha : a ∉ l) : Memory.word m' a = Memory.word m a := by
  have key : ∀ i < 4, Memory.byte m' (byteKey a i) = Memory.byte m (byteKey a i) := fun i hi =>
    h _ fun b hb j hj hk => ha ((byteKey_inj hi hj hk).1 ▸ hb)
  simp only [Memory.word, key 0 (by omega), key 1 (by omega), key 2 (by omega), key 3 (by omega)]

/-! ### Addresses of slots (R23) -/

theorem State.slotAddr_toNat (s : State) (hf : s.areaFits) {n k i : Nat} (hn : n < s.nseg) (hk : k < 16) (hi : i < 4) :
    (s.slotAddr n k i).toNat = s.jbase.toNat + 64 * n + 4 * k + i := by
  simp only [State.areaFits, Config.segmentWords, Config.memoryWords] at hf
  simp only [State.slotAddr, Config.segmentWords, Config.slotWords, BitVec.toNat_ofNat]
  exact Nat.mod_eq_of_lt (by omega)

theorem State.slotAddr_inj (s : State) (hf : s.areaFits) {n k i n' k' i' : Nat} (hn : n < s.nseg) (hk : k < 16)
    (hi : i < 4) (hn' : n' < s.nseg) (hk' : k' < 16) (hi' : i' < 4) (h : s.slotAddr n k i = s.slotAddr n' k' i') :
    n = n' ∧ k = k' ∧ i = i' := by
  have := congrArg BitVec.toNat h
  rw [s.slotAddr_toNat hf hn hk hi, s.slotAddr_toNat hf hn' hk' hi'] at this
  omega

theorem State.inWindow_slotAddr (s : State) (hf : s.areaFits) {n k i : Nat} (hn : n < s.nseg) (hk : k < 16)
    (hi : i < 4) : s.inWindow (s.slotAddr n k i) = true := by
  simp only [State.inWindow, s.slotAddr_toNat hf hn hk hi, Config.segmentWords, Bool.and_eq_true, decide_eq_true_eq]
  omega

/-- A word outside the journal window is no word of a slot. -/
theorem State.ne_slotAddr (s : State) (hf : s.areaFits) {a : Addr} (ha : s.inWindow a = false) {n k i : Nat}
    (hn : n < s.nseg) (hk : k < 16) (hi : i < 4) : a ≠ s.slotAddr n k i := by
  rintro rfl
  simp [s.inWindow_slotAddr hf hn hk hi] at ha

/-! ### The accesses of a grant -/

/-- What one access does to memory. -/
def PortOp.memory (m : List Host.Cell) : PortOp → List Host.Cell
  | .read _ => m
  | .write a be w => Memory.putWord m a be w

/-- What a plan does to memory: its writes in order. -/
def planMemory (m : List Host.Cell) (ps : List PlannedOp) : List Host.Cell := ps.foldl (fun m p => p.op.memory m) m

theorem State.perform_mem (s : State) (p : PlannedOp) : (s.perform p).mem = p.op.memory s.mem := by
  rw [State.perform, State.mem_of_fixed (State.mark_fixed _ _)]
  cases p.op <;> rfl

/-- Memory after the accesses of a grant. -/
theorem State.performAll_mem (s : State) (ps : List PlannedOp) : (s.performAll ps).mem = planMemory s.mem ps := by
  induction ps generalizing s with
  | nil => rfl
  | cons p t ih =>
    show (State.performAll (s.perform p) t).mem = planMemory (p.op.memory s.mem) t
    rw [ih, State.perform_mem]

theorem planMemory_append (m : List Host.Cell) (ps qs : List PlannedOp) :
    planMemory m (ps ++ qs) = planMemory (planMemory m ps) qs := List.foldl_append

/-- Reads leave memory. -/
theorem State.planMemory_slotReads (s : State) (m : List Host.Cell) (n k : Nat) : planMemory m (s.slotReads n k) = m := rfl

theorem State.planMemory_slotsReads (s : State) (m : List Host.Cell) (seg k n : Nat) :
    planMemory m (s.slotsReads seg k n) = m := by
  induction n generalizing k with
  | zero => rfl
  | succ n ih => rw [State.slotsReads, planMemory_append, State.planMemory_slotReads, ih]

/-- The four writes of a record leave every byte outside its slot. -/
theorem State.sameOutside_recordWrites (s : State) (m : List Host.Cell) (n k : Nat) (r : Record) (mark : Mark) :
    Memory.SameOutside m (planMemory m (s.recordWrites n k r mark)) (s.slotWords n k) := by
  refine .trans (Memory.sameOutside_putWord m (s.slotAddr n k 1) allBytes r.w1 (by simp [State.slotWords])) ?_
  refine .trans (Memory.sameOutside_putWord _ (s.slotAddr n k 2) allBytes r.w2 (by simp [State.slotWords])) ?_
  refine .trans (Memory.sameOutside_putWord _ (s.slotAddr n k 3) allBytes r.w3 (by simp [State.slotWords])) ?_
  exact Memory.sameOutside_putWord _ (s.slotAddr n k 0) allBytes r.w0 (by simp [State.slotWords])

/-- The four writes of a record put it in its slot (R33). -/
theorem State.slotIn_recordWrites (s : State) (hf : s.areaFits) (m : List Host.Cell) {n k : Nat} (hn : n < s.nseg)
    (hk : k < 16) (r : Record) (mark : Mark) : s.slotIn (planMemory m (s.recordWrites n k r mark)) n k = r := by
  have ne : ∀ i j, i < 4 → j < 4 → i ≠ j → s.slotAddr n k i ≠ s.slotAddr n k j := fun i j hi hj hij h =>
    hij (s.slotAddr_inj hf hn hk hi hn hk hj h).2.2
  have e : planMemory m (s.recordWrites n k r mark) =
      Memory.putWord (Memory.putWord (Memory.putWord (Memory.putWord m (s.slotAddr n k 1) allBytes r.w1)
        (s.slotAddr n k 2) allBytes r.w2) (s.slotAddr n k 3) allBytes r.w3) (s.slotAddr n k 0) allBytes r.w0 := rfl
  rw [e]
  simp only [State.slotIn, allBytes]
  rw [Memory.word_putWord_all, Memory.word_putWord_ne _ _ _ (ne 1 0 (by omega) (by omega) (by omega)),
    Memory.word_putWord_ne _ _ _ (ne 1 3 (by omega) (by omega) (by omega)),
    Memory.word_putWord_ne _ _ _ (ne 1 2 (by omega) (by omega) (by omega)), Memory.word_putWord_all,
    Memory.word_putWord_ne _ _ _ (ne 2 0 (by omega) (by omega) (by omega)),
    Memory.word_putWord_ne _ _ _ (ne 2 3 (by omega) (by omega) (by omega)), Memory.word_putWord_all,
    Memory.word_putWord_ne _ _ _ (ne 3 0 (by omega) (by omega) (by omega)), Memory.word_putWord_all]

/-! ### Checks (R30, R31) -/

/-- The kind of a descriptor whose kind is replaced, and every other field kept (R29). -/
theorem kindField_withKind (k : BitVec 4) (w : Word) : kindField (withKind k w) = k := by
  simp only [kindField, withKind]
  ext i hi
  simp only [BitVec.getElem_extractLsb', BitVec.getLsbD_append]
  have h : ¬ 28 + i < 28 := by omega
  simp [h, BitVec.getLsbD_eq_getElem hi]

theorem withKind_self (w : Word) : withKind (kindField w) w = w := by
  simp only [kindField, withKind]
  ext i hi
  simp only [BitVec.getElem_append, BitVec.getElem_extractLsb']
  split
  · simp [BitVec.getLsbD_eq_getElem hi]
  · have h : 28 + (i - 28) = i := by omega
    rw [h, BitVec.getLsbD_eq_getElem hi]

theorem withKind_withKind (k k' : BitVec 4) (w : Word) : withKind k (withKind k' w) = withKind k w := by
  simp only [withKind]
  congr 1
  ext i hi
  simp only [BitVec.getElem_extractLsb', BitVec.getLsbD_append]
  simp [hi]

theorem seqField_append (q c : BitVec 16) : seqField (q ++ c) = q := by
  simp only [seqField]
  ext i hi
  simp only [BitVec.getElem_extractLsb', BitVec.getLsbD_append]
  simp [BitVec.getLsbD_eq_getElem hi]

theorem checkField_append (q c : BitVec 16) : checkField (q ++ c) = c := by
  simp only [checkField]
  ext i hi
  simp only [BitVec.getElem_extractLsb', BitVec.getLsbD_append]
  simp [hi]

/-- A complete new record of a kind that the part first writes passes its check. -/
theorem newRecord_passes (w0 w1 w2 : Word) (q : BitVec 16) (hk : (kindField w0).toNat ≤ 6)
    (hf : firstKind (kindField w0) = kindField w0) : (newRecord w0 w1 w2 q).passes = true := by
  simp only [Record.passes, newRecord, seqField_append, checkField_append, hf, withKind_self]
  simp [hk]

/-- A PRE record that passes its check still does once it is RESTORED (R31). -/
theorem restored_passes (r : Record) (hp : r.passes = true) (hk : r.isKind .pre = true) :
    Record.passes { r with w0 := withKind RecordKind.restored.code r.w0 } = true := by
  have hk' : kindField r.w0 = 2#4 := by simpa [Record.isKind, RecordKind.code] using hk
  have e : ({ r with w0 := withKind RecordKind.restored.code r.w0 } : Record).passes = r.passes := by
    simp only [Record.passes, kindField_withKind, withKind_withKind, hk']
    rfl
  rw [e, hp]

end Sys2Proof.Machine
end

