-- ==== Sys2Proof/Tests/Slice0.lean ====
section
/-! SUPPORT. Tests: words and frames written out from the spec, one-step checks against its worked sequences, and states that meet the hypotheses of the statements. -/

namespace Sys2Proof.Tests

set_option Elab.async false

open Sys2Proof Sys2Proof.Machine

/-! ### Small states -/

/-- The state after a command, or the same state where the command does not answer one. -/
def after (c : Instr) (s : State) : State :=
  match exec c s with
  | .next t => t
  | .fault _ => s
  | .refused _ => s

/-- In RUN with 16 segments from 0x002000, three of them in the pool, and one region of each mode. -/
def running : State :=
  { State.reset with
    mode := .run, jbase := 0x2000#22, nseg := 16, gen := 5#8, pool := [3, 4, 5],
    regions := (((State.reset.regions.set 0 ⟨true, .journalRequired, 0x1020#22, 0x102F#22⟩).set 1
      ⟨true, .readonly, 0x1030#22, 0x103F#22⟩).set 2 ⟨true, .journal, 0x1000#22, 0x103F#22⟩).set 3
      ⟨true, .pass, 0x1000#22, 0x103F#22⟩ }

/-- The epoch of context 2, with two records in segment 7. -/
def epoch2 : Epoch := ⟨1, 0x0A07#16, [⟨7, 0⟩], 3, true, 2, 0, false⟩

/-- Context 2 is in a phase with two claims, and source 1 is bound to it while it is OPEN. -/
def withPhase (p : Phase) : State :=
  { running with
    contexts := running.contexts.set 2 (.active p epoch2)
    sources := running.sources.set 1 ⟨if Context.isOpen (.active p epoch2) then some 2 else none, false⟩
    claims := [⟨0x1004#22, 2⟩, ⟨0x1008#22, 2⟩] }

/-- Context 2 OPEN with two claims. -/
def opened : State := withPhase (.opened none)

/-- The same, with an idle timer of 50 ms. -/
def timed : State := { withPhase (.opened (some ⟨7, 3⟩)) with limits := { Limits.reset with idlelim := 50 } }

/-- Context 2 OPEN and empty. -/
def empty : State := { opened with claims := [] }

/-- A fault found at slot 2 of segment 7. -/
def faultAt (k : FaultKind) : FaultInfo := ⟨k, .live, some ⟨7, 2⟩⟩

/-- Context 2 FAULTED. -/
def faulted (k : FaultKind) : State := withPhase (.faulted .idle (faultAt k))

/-- Context 2 with a job at the head of the queue. -/
def queued (p : Phase) : State := { withPhase p with queue := [⟨2, none⟩] }

/-- The same, with the port given to the Replay Engine. -/
def granted (p : Phase) : State := { queued p with holder := some .be }

/-- A read by source 1. -/
def readAt (a : Addr) : Access := ⟨a, 0xF#4, 1, false, 0#32⟩

/-- A write by a source, of the upper half of the word. -/
def writeBy (i : SrcNum) (a : Addr) : Access := ⟨a, 0xC#4, i, true, 0xAABBCCDD#32⟩

/-- A state whose host access waits for a grant. -/
def waiting (s : State) (a : Access) (r : Route) : State := { s with access := some ⟨a, .toMemory r, none⟩ }

/-- The same, with the port given to the host path. -/
def hosting (s : State) (a : Access) (r : Route) : State := { waiting s a r with holder := some .hp }

/-- A state with a held host access. -/
def holding (s : State) (a : Access) (r : HoldReason) (n : Nat) : State :=
  { s with access := some ⟨a, .held r, some n⟩ }

/-- A record stored in a slot. -/
def stored (s : State) (n k : Nat) (r : Record) : State :=
  (((s.store (s.slotAddr n k 1) allBytes r.w1).store (s.slotAddr n k 2) allBytes r.w2).store (s.slotAddr n k 3)
    allBytes r.w3).store (s.slotAddr n k 0) allBytes r.w0

/-- The PRE record of the word 0x001008 in slot 2 of segment 7. -/
def pre2 : Record := preRecord 5#8 2 1 0 2 0x0A07#16 0x1008#22 0x11223344#32

/-- A rollback of context 2 with its newest record in memory. -/
def restoring : State := stored (granted (.rollingBack .abortCmd)) 7 2 pre2

/-- Recovery in progress with the port given to the Replay Engine. -/
def recovering (w : Work) : State := { running with mode := .recovering, holder := some .be, work := w, pool := [] }

/-- A live header of context 2 as the survey keeps it. -/
def live (n idx : Nat) : LiveSeg := ⟨n, 2, 1, idx, 0x0A07#16⟩

/-- The recovery record while context 2 is judged. -/
def judging (l : List LiveSeg) : Recovery := ⟨l, [2], [], 0, 0⟩

/-- An event record. -/
def event : Event := ⟨.committed, 7#8, some 2, some 1, none, .run, 3#16, none⟩

/-- A state whose event queue holds 32 records. -/
def fullEvents : State := { running with events := List.replicate 32 event }

/-! ### Well-formedness, and frames written out from R168 -/

/-- A frame whose opcode is a command's is no BAD_OPCODE. -/
theorem test_wellformed_refuses_command_opcode : WellFormed (.badOpcode 0x01#8) = false := by decide

theorem test_wellformed_accepts_unknown_opcode : WellFormed (.badOpcode 0x06#8) = true := by decide

/-- OPEN for source 2: opcode 0x30, then the source. -/
theorem test_decode_open : decodeFrame [0x30#8, 0x02#8] = .openEpoch 0x02#8 := by decide +kernel

/-- SET_REGION: index, enable, mode, base and limit in three bytes each. -/
theorem test_decode_set_region :
    decodeFrame [0x20#8, 0x02#8, 0x01#8, 0x01#8, 0x00#8, 0x10#8, 0x00#8, 0x00#8, 0x10#8, 0x0F#8] =
      .setRegion 2#8 1#8 1#8 0x001000#24 0x00100F#24 := by decide +kernel

/-- SET_GUARD cut before its last byte is a short frame. -/
theorem test_decode_short_guard :
    decodeFrame [0x28#8, 0#8, 1#8, 0#8, 0x50#8, 0#8, 0#8, 0#8, 0#8, 0#8, 0#8, 0#8, 0#8, 0#8, 0#8, 0#8] = .shortFrame := by
  decide +kernel

theorem test_decode_set_accounting :
    decodeFrame [0x40#8, 1#8, 5#8, 0#8, 6#8] = .setAccounting 1#8 5#8 0#8 6#8 := by decide +kernel

theorem test_decode_get_id : decodeFrame [0x01#8] = .getId := by decide +kernel

theorem test_table_words_spell_nothing : decodeTableWord 8 0x01 = none := rfl


/-! ### Records and single steps, from the spec's tables and worked sequences -/

/-- Word 0 of the PRE record of the first write in the worked sequence of Chapter 5: kind 2, generation 4, chain index
0, slot 14, context 3, source 0 (R166). -/
theorem test_descriptor_layout : (preRecord 4#8 3 0 0 14 0x0201#16 0x001100#22 0#32).w0 = 0x20400E60#32 := by
  decide +kernel

/-- The check of that record, computed outside the model from R30's polynomial over its 14 bytes. -/
theorem test_check_word : (preRecord 4#8 3 0 0 14 0x0201#16 0x001100#22 0#32).w3 = 0x02019C68#32 := by decide +kernel

/-- Slot 14 of segment 6 lies at 0x2001B8 when JBASE is 0x200000 (Chapter 5). -/
theorem test_slot_address : State.slotAddr { State.reset with jbase := 0x200000#22 } 6 14 0 = 0x2001B8#22 := by
  decide +kernel

/-- The state before the three writes of the worked sequence of Chapter 5. -/
def boundary : State :=
  { State.reset with
    mode := .run, jbase := 0x200000#22, nseg := 32, gen := 4#8, pool := [10, 12, 15]
    limits := { Limits.reset with idlelim := 100, lowwater := 3 }
    contexts := State.reset.contexts.set 3 (.active (.opened (some ⟨90, 0⟩)) ⟨0, 0x0201#16, [⟨6, 0⟩], 15, true, 14, 0, false⟩)
    sources := State.reset.sources.set 0 ⟨some 3, false⟩
    regions := State.reset.regions.set 1 ⟨true, .journal, 0x1000#22, 0x1FFF#22⟩ }

/-- Write 2 of that sequence: 0x00000005 to 0x001104. -/
def write2 : Access := ⟨0x001104#22, 0xF#4, 0, true, 0x00000005#32⟩

/-- The strobe of write 2 is sent to the memory side as a journalled write of context 3, and HP is granted. -/
theorem test_strobe_is_journalled :
    (after (.hostAccessStart 0x001104#22 0xF#4 0 true 5#32) boundary).access =
        some ⟨write2, .toMemory (.journalled 3 0x0201#16), none⟩ ∧
      (after (.hostAccessStart 0x001104#22 0xF#4 0 true 5#32) boundary).holder = some .hp := by decide +kernel

/-- Write 2 carried to its end: segment 10 joins the chain, LOW_WATER is raised with count 2, fill is 2 and 15 records
are written (Chapter 5). -/
theorem test_journalled_write_takes_segment :
    let t := after (.journalledWriteGrant .toEnd) (hosting boundary write2 (.journalled 3 0x0201#16))
    (t.ctx 3).epoch = some ⟨0, 0x0201#16, [⟨6, 0⟩, ⟨10, 1⟩], 2, true, 15, 0, false⟩ ∧ t.pool = [12, 15] ∧
      t.events.map (fun e => (e.kind, e.count)) = [(.lowWater, 2#16)] ∧ t.word 0x001104#22 = 5#32 ∧
      t.word 0x200285#22 = 0x001104#32 ∧ t.word 0x200281#22 = 10#32 := by decide +kernel

/-- Write 3 of that sequence has byte enable 0 alone: the word 0x11223344 becomes 0x112233AA. -/
theorem test_merge_of_enabled_byte : mergeBytes 0x1#4 0x11223344#32 0x000000AA#32 = 0x112233AA#32 := by decide +kernel

/-- After five accesses (the read and the header's four writes) the record is not yet there and the word holds its
pre-image; GET_CONTEXT would report fill 1 and 14 records (Chapter 5). -/
theorem test_partial_grant :
    let t := after (.journalledWriteGrant (.accesses 5)) (hosting boundary write2 (.journalled 3 0x0201#16))
    (t.ctx 3).epoch = some ⟨0, 0x0201#16, [⟨6, 0⟩, ⟨10, 1⟩], 1, true, 14, 0, false⟩ ∧ t.word 0x001104#22 = 0#32 ∧
      t.grant.map (fun g => g.todo.length) = some 5 := by decide +kernel

/-- OPEN takes the lowest FREE context and the pool head, and answers OK, the context and the sequence (R7; Chapter 1,
step 1). -/
theorem test_open_answers :
    let t := after (.openEpoch 2#8) { running with epochSeq := 0x0110#16 }
    t.sdo = [0x00#8, 0x00#8, 0x01#8, 0x10#8] ∧ t.epochSeq = 0x0111#16 ∧ t.pool = [4, 5] ∧
      (t.source 2).bound = some 0 := by decide +kernel

/-- The idle expiry of an empty epoch frees it, with ROLLED_BACK, code IDLE and count 0 (Chapter 1, step 5). -/
theorem test_idle_expiry_of_empty_epoch :
    let t := after (.idleExpiry 2) { timed with claims := [] }
    t.ctx 2 = .free ∧ t.pool = [3, 4, 5, 7] ∧
      t.events.map (fun e => (e.kind, e.code, e.count)) = [(.rolledBack, some 2#8, 0#16)] := by decide +kernel

/-- A word claimed by a COMMITTING context holds a write and forwards a read (R64, R65). -/
theorem test_committing_word :
    (queued .committing).classify (writeBy 0 0x1004#22) = .hold ∧
      (queued .committing).classify (readAt 0x1004#22) = .send .forwarded := by decide +kernel

/-- A write to a word claimed by another OPEN context is refused CONFLICT, counted in group CONFLICT (R65, R73). -/
theorem test_conflict_is_counted :
    let t := after (.hostAccessStart 0x1004#22 0xF#4 0 true 1#32) opened
    t.lastEnding = some (.refused .conflict) ∧ (t.counter 0 .conflict).value = 1#8 ∧ t.herr = true := by decide +kernel

/-- The last FREEING step of a commit returns the segment and raises COMMITTED with the record count (R99, R110). -/
theorem test_last_freeing_step :
    let s := granted .committing
    let t := after (.freeingStep .toEnd) { s with contexts := s.contexts.set 2 (.active .committing { epoch2 with markerWritten := true }) }
    t.ctx 2 = .free ∧ t.pool = [3, 4, 5, 7] ∧ t.queue = [] ∧
      t.events.map (fun e => (e.kind, e.count)) = [(.committed, 2#16)] := by decide +kernel

/-- A restore step puts the pre-image back, releases the claim and moves to slot 1 (R101, R103). -/
theorem test_restore_step :
    let t := after (.restoreStep .toEnd) restoring
    t.word 0x1008#22 = 0x11223344#32 ∧ t.claims = [⟨0x1004#22, 2⟩] ∧ t.job = some ⟨2, .restore ⟨7, 1⟩⟩ ∧
      kindField (t.slot 7 2).w0 = 3#4 ∧ (t.slot 7 2).passes = true := by decide +kernel

/-- The COMMIT marker of context 2: kind 4, generation 5, chain index 0, slot 3, context 2, source 1, and the record
count in word 1 (R97, R166). -/
theorem test_commit_marker :
    let t := after (.commitMarker .toEnd) (granted .committing)
    (t.slot 7 3).w0 = 0x40500348#32 ∧ (t.slot 7 3).w1 = 2#32 ∧ (t.slot 7 3).passes = true ∧ t.claims = [] := by
  decide +kernel

/-- PFAIL# refuses a held access FROZEN, uncounted (R72, R73). -/
theorem test_pfail_refuses_held :
    let t := after .pfailAsserted (holding opened (writeBy 0 0x1004#22) .conflict 100)
    t.mode = .frozen ∧ t.lastEnding = some (.refused .frozen) ∧ t.counters = opened.counters := by decide +kernel

/-- A survey of an area with no live header ends in RUN with every segment in the pool (R146, R152). -/
theorem test_recovery_of_blank_area :
    let t := after (.surveyStep .toEnd) (recovering (.survey 15 []))
    t.mode = .run ∧ t.pool = List.range 16 ∧ t.epochSeq = 0#16 := by decide +kernel

/-- REPEAT_RESPONSE right after reset sends EMPTY (R156, R158). -/
theorem test_repeat_after_reset : (after .repeatResponse State.reset).sdo = [0x89#8] := by decide +kernel

/-! ### States that meet the hypotheses of the statements, clause by clause -/

/-- No context of a state in one phase is in another: used where a hypothesis says what context 2 is not. -/
theorem ctx2_of_withPhase (p : Phase) : (withPhase p).ctx 2 = .active p epoch2 := rfl

theorem test_meets_StepRunsFrontCommand : State.pending { running with pending := [.gate, .getId] } = .gate :: [.getId] := rfl

theorem test_meets_EmptyQueueStepCountsTimers :
    (State.reset.pending = [] ∧ State.reset.mode ≠ .run) ∧
    (State.pending { running with inReset := true } = [] ∧ State.inReset { running with inReset := true } = true) ∧
    (let s := holding timed (readAt 0#22) .conflict 200
     s.pending = [] ∧ s.mode = .run ∧ s.inReset = false ∧ (s.ctx 2).idle = some ⟨7, 3⟩ ∧
      s.access = some ⟨readAt 0#22, .held .conflict, some (198 + 2)⟩) ∧
    (holding running (readAt 0#22) .claimFull 1).access = some ⟨readAt 0#22, .held .claimFull, some 1⟩ := by decide +kernel

/-- With nothing held the first clause on RUN applies: an access that waits is not held. -/
theorem test_meets_EmptyQueueStepCountsTimers_nothing_held (a : Access) (r : HoldReason) (n : Nat) :
    timed.access ≠ some ⟨a, .held r, some n⟩ := nofun

/-- A microsecond ends a millisecond, and the last one of an idle timer makes the rollback request (R12, R13). -/
theorem test_idle_timer_counts :
    (timed.tick.ctx 2).idle = some ⟨7, 4⟩ ∧
    ((withPhase (.opened (some ⟨7, 999⟩))).tick.ctx 2).idle = some ⟨6, 0⟩ ∧
    (withPhase (.opened (some ⟨1, 999⟩))).tick.ctx 2 = .active (.rollingBack .idle) epoch2 := by decide +kernel

theorem test_meets_DecodeEncodeAgree :
    (WellFormed (.badOpcode 0xFF#8) = true ∧ encodeFrame (.badOpcode 0xFF#8) = some [0xFF#8]) ∧
    (WellFormed (.getRegion 255#8) = true ∧ encodeFrame (.getRegion 255#8) = some [0x21#8, 0xFF#8]) ∧
    (WellFormed .shortFrame = true ∧ encodeFrame .shortFrame = some []) := by decide +kernel

theorem test_meets_reading_commands :
    State.reset.inReset = false ∧ fullEvents.inReset = false ∧ fullEvents.events = event :: List.replicate 31 event ∧
      State.reset.events = [] := by decide +kernel

theorem test_meets_EventsAreReadAndMasked :
    (State.mode { running with mode := .frozen } = .frozen) ∧ running.mode ≠ .frozen ∧
    (BitVec.getLsbD 0x0001#16 0 = true) ∧ (10 ≤ 10 ∧ BitVec.getLsbD 0x0400#16 10 = true) ∧
    (10 ≤ 15 ∧ BitVec.getLsbD 0x8000#16 15 = true) ∧ BitVec.getLsbD 0x03FE#16 0 = false := by decide +kernel

/-- The mask 0x03FE has no bit above 9. -/
theorem test_meets_EventsAreReadAndMasked_high : ∀ k, 10 ≤ k → BitVec.getLsbD 0x03FE#16 k = false := by
  intro k hk
  rcases Nat.lt_or_ge k 16 with h | h
  · obtain rfl | rfl | rfl | rfl | rfl | rfl : k = 10 ∨ k = 11 ∨ k = 12 ∨ k = 13 ∨ k = 14 ∨ k = 15 := by omega
    all_goals decide
  · exact BitVec.getLsbD_of_ge _ _ h

theorem test_meets_ShortAndUnknownFrames :
    State.shortFrames { running with shortFrames := 255#8 } = 255#8 ∧ (Instr.shortFrame ≠ .reset) ∧
      exec .shortFrame State.reset = .next { State.reset with shortFrames := 1#8 } ∧
      encodeFrame (.openEpoch 2#8) = some [0x30#8, 0x02#8] ∧ encodeFrame .shortFrame = some [] :=
  ⟨rfl, by decide, rfl, rfl, rfl⟩

/-- SDO is 0x00 while OPEN and its argument are shifted in, and then the response (R155). -/
theorem test_sdo_while_arguments_shift_in :
    let t := after (.openEpoch 2#8) { running with epochSeq := 0x0110#16 }
    (List.range 7).map (t.frameByte (.openEpoch 2#8)) =
      [0x00#8, 0x00#8, 0x00#8, 0x00#8, 0x01#8, 0x10#8, 0x00#8] ∧
    (after .shortFrame t).frameByte .shortFrame 0 = 0x00#8 := by decide +kernel

theorem test_meets_LimitsAreSetAndRead :
    (State.mode { running with mode := .formatting } ≠ .gated ∧ State.mode { running with mode := .formatting } ≠ .run) ∧
    (running.mode = .gated ∨ running.mode = .run) ∧
    (1 ≤ (256#16).toNat ∧ (256#16).toNat ≤ 256 ∧ 1 ≤ (512#16).toNat ∧ (512#16).toNat ≤ 512 ∧ (2#8).toNat ≤ 2 ∧
      1 ≤ (4095#16).toNat ∧ (4095#16).toNat ≤ 4095 ∧ 1 ≤ (255#8).toNat) ∧
    ¬ (257#16).toNat ≤ 256 ∧ ¬ (3#8).toNat ≤ 2 ∧ ¬ 1 ≤ (0#8).toNat ∧
    (opened.ctx 2 ≠ .free ∧ (queued .committing).queue ≠ []) ∧
    ((∀ x, running.ctx x = .free) ∧ running.queue = []) := by decide +kernel

theorem test_meets_StatLinesFollowSelections :
    running.inReset = false ∧ running.mode ≠ .frozen ∧ 7 < (8#8).toNat ∧ (7#8).toNat < 8 ∧
      State.stat0 { running with stat0 := 6 } = 6 ∧ State.stat1 { running with stat1 := 6 } = 6 ∧ running.limits.lowwater = 0 := by decide +kernel

theorem test_meets_EventQueueTakesEvents :
    (State.eventMask { running with eventMask := 0#16 }).getLsbD EventKind.guard.code = false ∧
    running.eventMask.getLsbD EventKind.formatDone.code = true ∧ running.events.length < 32 ∧
    fullEvents.eventMask.getLsbD EventKind.committed.code = true ∧ 32 ≤ fullEvents.events.length := by decide +kernel

theorem test_meets_GeometryIsSet :
    running.mode ≠ .gated ∧ State.reset.mode = .gated ∧
    ((0x000040#24).toNat % 64 = 0 ∧ 16 ≤ (16#16).toNat ∧ (16#16).toNat ≤ 256 ∧
      (0x3FC000#24).toNat % 64 = 0 ∧ (0x3FC000#24).toNat + (256#16).toNat * 64 ≤ 4194304) ∧
    ((0x000041#24).toNat % 64 ≠ 0 ∧ (15#16).toNat < 16 ∧ 256 < (257#16).toNat ∧
      4194304 < (0x3FC040#24).toNat + (256#16).toNat * 64) := by decide +kernel

theorem test_meets_ModeCommandsAreTaken :
    (running.mode ≠ .gated ∧ State.reset.mode = .gated ∧ State.reset.nseg = 0 ∧
      State.mode { running with mode := .gated } = .gated ∧ State.nseg { running with mode := .gated } ≠ 0) ∧
    (State.reset.mode ≠ .run ∧ running.mode = .run ∧ opened.ctx 2 ≠ .free ∧ (queued .committing).queue ≠ [] ∧
      (∀ c, running.ctx c = .free) ∧ running.queue = []) := by decide +kernel

theorem test_meets_RegionsAreSetReadAndUsed :
    (15 < (16#8).toNat ∧ 1 < (2#8).toNat ∧ 3 < (4#8).toNat ∧ 0x3FFFFF < (0x400000#24).toNat) ∧
    ((15#8).toNat < 16 ∧ (1#8).toNat ≤ 1 ∧ (3#8).toNat ≤ 3 ∧ (0x3FFFFF#24).toNat ≤ (0x3FFFFF#24).toNat) ∧
    ((running.region 1).enable = true ∧ (running.region 1).base.toNat ≤ (0x1030#22).toNat ∧
      (0x1030#22).toNat ≤ (running.region 1).limit.toNat ∧
      ∀ j : Fin 16, j < 1 → ¬ ((running.region j).enable = true ∧ (running.region j).base.toNat ≤ (0x1030#22).toNat ∧
        (0x1030#22).toNat ≤ (running.region j).limit.toNat)) ∧
    (∀ i : Fin 16, ¬ ((running.region i).enable = true ∧ (running.region i).base.toNat ≤ (0x1040#22).toNat ∧
        (0x1040#22).toNat ≤ (running.region i).limit.toNat)) ∧
    (running.mode = .run ∧ running.inWindow 0x2000#22 = true ∧ running.inWindow 0x23FF#22 = true ∧
      (readAt 0x23FF#22).write = false ∧ (writeBy 0 0x2000#22).be ≠ 0#4) := by decide +kernel

theorem test_meets_ReadsAreClassified :
    running.mode = .run ∧ (readAt 0x1004#22).write = false ∧ (faulted .check).owner 0x1004#22 = some 2 ∧
      running.owner 0x1004#22 = none := by decide +kernel

theorem test_meets_WritesAreClassified :
    (opened.mode = .run ∧ (writeBy 1 0x1004#22).write = true ∧ opened.owner 0x1004#22 = some 2 ∧
      opened.ctx 2 ≠ .free ∧ opened.inWindow 0x1004#22 = false ∧ (opened.source 1).fenced = false ∧
      opened.regionMode 0x1004#22 ≠ .readonly ∧ opened.ctx 2 = .active (.opened none) epoch2) ∧
    (opened.inWindow 0x2000#22 = true ∧ opened.regionMode 0x1030#22 = .readonly ∧
      (State.source { opened with sources := opened.sources.set 1 ⟨some 2, true⟩ } 1).fenced = true) ∧
    (opened.owner 0x1000#22 = none ∧ opened.regionMode 0x1000#22 = .journal ∧ (opened.source 1).bound = some 2 ∧
      (opened.source 0).bound = none ∧ opened.regionMode 0x1020#22 = .journalRequired ∧
      opened.regionMode 0x1040#22 = .pass) := by decide +kernel

theorem test_meets_AccessStartsAsClassified :
    opened.inReset = false ∧ opened.access = none ∧
    opened.classify ⟨0x1000#22, 0#4, 1, true, 0#32⟩ = .done ∧
    opened.classify ⟨0x1030#22, 0xF#4, 1, true, 0#32⟩ = .refused .readonly ∧
    ((queued .committing).classify ⟨0x1004#22, 0xF#4, 0, true, 0#32⟩ = .hold ∧ 1 ≤ (queued .committing).limits.holdlim) ∧
    opened.classify ⟨0x1000#22, 0xF#4, 1, true, 0#32⟩ = .send (.journalled 2 0x0A07#16) ∧
    State.reset.mode ≠ .run ∧
    (waiting opened (readAt 0#22) .forwarded).access = some ⟨readAt 0#22, .toMemory .forwarded, none⟩ := by decide +kernel

/-- A held read of a word, and the reports that end its hold. -/
theorem test_meets_ReportsEndHolds :
    ((holding running (readAt 0x1004#22) .conflict 9).access = some ⟨readAt 0x1004#22, .held .conflict, some 9⟩ ∧
      (readAt 0x1004#22).addr ∈ (⟨none, [0x1004#22], false⟩ : Report).released ∧
      (holding running (readAt 0x1004#22) .conflict 9).classify (readAt 0x1004#22) = .send .forwarded) ∧
    ((holding (queued .discarding) (readAt 0x1004#22) .conflict 9).classify (readAt 0x1004#22) = .hold) ∧
    ((holding (faulted .check) (writeBy 0 0x1004#22) .claimFull 9).classify (writeBy 0 0x1004#22) = .refused .lockedWord ∧
      (⟨none, [0x1008#22], false⟩ : Report).released ≠ [] ∧ (⟨none, [], true⟩ : Report).returned = true ∧
      (writeBy 0 0x1004#22).write = true ∧ (⟨some 0, [], false⟩ : Report).rebound = some (writeBy 0 0x1004#22).src) ∧
    ((holding running ⟨0#22, 0#4, 1, true, 0#32⟩ .journalFull 9).classify ⟨0#22, 0#4, 1, true, 0#32⟩ = .done) ∧
    ((HoldReason.conflict ≠ .journalFull) ∧ (readAt 0x1004#22).addr ∉ (⟨some 1, [0x1008#22], true⟩ : Report).released ∧
      (readAt 0x1004#22).write = false) := by decide +kernel

theorem test_meets_HoldExpiryRefuses :
    ((holding opened (writeBy 0 0x1004#22) .conflict 1).mode = .run ∧
      (holding opened (writeBy 0 0x1004#22) .conflict 1).access =
        some ⟨writeBy 0 0x1004#22, .held .conflict, some 1⟩) ∧ State.reset.mode ≠ .run := by decide +kernel

theorem test_meets_HoldExpiryRefuses_nothing_held (a : Access) (r : HoldReason) (l : Option Nat) :
    running.access ≠ some ⟨a, .held r, l⟩ := nofun

/-- A source one refusal short of the threshold of a group with every action. -/
def nearThreshold : State :=
  { opened with
    groups := opened.groups.set 0 ⟨5#8, .saturate, 7#3⟩
    counters := opened.counters.set 1 ((opened.counters[1]).set 0 ⟨4#8, false⟩) }

/-- The same with other actions. -/
def nearWith (actions : BitVec 3) : State :=
  { nearThreshold with groups := nearThreshold.groups.set 0 ⟨5#8, .saturate, actions⟩ }

theorem test_meets_ThresholdActs :
    (((nearThreshold.counter 1 .conflict).value ≠ 255#8) ∧
      (nearThreshold.counter 1 .conflict).value + 1#8 = (nearThreshold.settings .conflict).threshold ∧
      (nearThreshold.settings .conflict).actions.getLsbD 2 = true ∧ (nearThreshold.source 1).bound = some 2 ∧
      nearThreshold.ctx 2 = .active (.opened none) epoch2 ∧ nearThreshold.claimsHeld 2 ≠ 0) ∧
    (let s : State := { nearThreshold with claims := [] }
     s.claimsHeld 2 = 0 ∧ (s.settings .conflict).actions.getLsbD 0 = true ∧ s.eventMask.getLsbD 2 = true ∧
      s.eventMask.getLsbD 6 = true ∧ s.events.length < 31) ∧
    ¬ ((opened.counter 1 .policy).value + 1#8 = (opened.settings .policy).threshold) ∧
    (((nearWith 0#3).settings .conflict).actions = 0#3 ∧ ((nearWith 1#3).settings .conflict).actions = 1#3 ∧
      ((nearWith 6#3).settings .conflict).actions = 6#3) := by decide +kernel

/-- The worked code of R131: group CONFLICT with FENCE, and with ABORT of a bound and of an unbound source. -/
theorem test_threshold_event_codes :
    ((nearThreshold.count 1 .conflict).events.map (fun e => (e.kind, e.ctx, e.code)) =
      [(.threshold, some 2, some 12#8)]) ∧
    (((nearWith 3#3).count 1 .conflict).events.map (fun e => (e.kind, e.ctx, e.code)) = [(.threshold, none, some 4#8)]) ∧
    ((nearThreshold.countBound 1 .conflict none).events.map (fun e => (e.kind, e.ctx, e.code)) =
      [(.threshold, none, some 4#8)]) := by decide +kernel

/-- A counter at 255 with hold mode ROLL reaches a threshold of 0 no more than it may be set (R129), and one with
SATURATE is not judged. -/
theorem test_saturated_counter_is_not_judged :
    isJudged .saturate 255#8 = false ∧ nextCount .roll 255#8 = 0#8 ∧ nextCount .saturate 254#8 = 255#8 := by decide +kernel

theorem test_meets_AccountingCommandsAreTaken :
    (2 < (3#8).toNat ∧ (2#8).toNat < 3 ∧ 1 < (2#8).toNat ∧ 7 < (8#8).toNat ∧ (1#8) ≠ 0#8 ∧ (1#8).toNat ≤ 1 ∧ (7#8).toNat ≤ 7) ∧
    (3 < (4#8).toNat ∧ (3#8).toNat < 4) ∧ running.mode ≠ .frozen ∧
    State.mode { running with mode := .frozen } = .frozen := by decide +kernel

/-- Every context taken. -/
def crowded : State := { running with contexts := Vector.replicate 8 (.active .committing epoch2) }

theorem test_meets_OpenIsCheckedAndTaken :
    State.reset.mode ≠ .run ∧ 3 < (4#8).toNat ∧ (running.mode = .run ∧ (3#8).toNat = (3 : SrcNum).val) ∧
    (State.source { running with sources := running.sources.set 3 ⟨none, true⟩ } 3).fenced = true ∧
    ((opened.source 1).fenced = false ∧ (opened.source 1).bound ≠ none) ∧ (∀ c, crowded.ctx c ≠ .free) ∧
    (running.ctx 0 = .free ∧ State.pool { running with pool := [] } = []) ∧
    ((opened.source 0).fenced = false ∧ (opened.source 0).bound = none ∧ opened.ctx 0 = .free ∧
      (∀ d < (0 : CtxNum), opened.ctx d ≠ .free) ∧ opened.pool = 3 :: [4, 5]) := by decide +kernel

theorem test_meets_commands_on_an_open_context :
    State.reset.mode ≠ .run ∧ 7 < (8#8).toNat ∧ (opened.mode = .run ∧ (2#8).toNat = (2 : CtxNum).val) ∧
    opened.ctx 2 = .active (.opened none) epoch2 ∧ opened.claimsHeld 2 ≠ 0 ∧ empty.claimsHeld 2 = 0 ∧
    empty.ctx 2 = .active (.opened none) epoch2 ∧ timed.ctx 2 = .active (.opened (some ⟨7, 3⟩)) epoch2 ∧
    timed.limits.idlelim ≠ 0 ∧ opened.limits.idlelim = 0 ∧ timed.mode = .run := by decide +kernel

theorem test_meets_commands_on_another_context (t : Option Idle) (e : Epoch) :
    (queued .committing).ctx 2 ≠ .active (.opened t) e := by
  rw [show (queued .committing).ctx 2 = .active .committing epoch2 from rfl]
  nofun

/-- A HOLD_COMMIT guard bound to ANY in state MISMATCH. -/
def guarded (g : Guard) : State := { opened with guards := opened.guards.set 7 g }

theorem test_meets_CommitIsCheckedAndTaken_held :
    (guarded ⟨true, 0x1004#22, 0#32, 1#32, .onMake, .holdCommit, none, .isMismatch⟩).HoldsBack 2 :=
  ⟨7, by decide +kernel, by decide +kernel, by decide +kernel, by decide +kernel⟩

theorem test_meets_CommitIsCheckedAndTaken_free : ¬ opened.HoldsBack 2 := by
  rintro ⟨i, h, -⟩
  have key : ∀ i, (opened.guard i).enable = false := by decide +kernel
  rw [key i] at h
  cases h

theorem test_meets_RetryResumesRollback :
    (faulted .check).ctx 2 = .active (.faulted .idle (faultAt .check)) epoch2 ∧ (faultAt .chain).kind = .chain ∧
      (faultAt .short).kind ≠ .chain ∧ (queued (.rollingBack .idle)).job = none ∧
      State.queue { queued (.rollingBack .idle) with queue := [⟨2, some ⟨7, 1⟩⟩] } = ⟨2, some ⟨7, 1⟩⟩ :: [] ∧
      (queued (.rollingBack .idle)).ctx 2 = .active (.rollingBack .idle) epoch2 ∧ epoch2.markerWritten = false := by
  decide +kernel

theorem test_meets_RetryResumesRollback_not_faulted (k : Cause) (f : FaultInfo) (e : Epoch) :
    opened.ctx 2 ≠ .active (.faulted k f) e := by
  rw [show opened.ctx 2 = .active (.opened none) epoch2 from rfl]
  nofun

theorem test_meets_ContextsAreRead :
    (∀ q ∈ opened.queue, q.ctx ≠ 2) ∧ (queued .committing).queue = [] ++ ⟨2, none⟩ :: [] ∧ opened.ctx 0 = .free ∧
      (7#8).toNat = (7 : CtxNum).val := by decide +kernel

theorem test_meets_GuardsAreSet :
    (7 < (8#8).toNat ∧ 0x3FFFFF < (0x400000#24).toNat ∧ 2 < (3#8).toNat ∧ 8 < (9#8).toNat) ∧
    ((7#8).toNat = (7 : Fin 8).val ∧ (0x3FFFFF#24).toNat ≤ 0x3FFFFF ∧ (2#8).toNat ≤ 2 ∧ (8#8).toNat ≤ 8) ∧
    (running.inWindow 0x2000#22 = true ∧ running.inWindow 0x2400#22 = false ∧ running.grant = none) ∧
    (State.grant { running with grant := some ⟨.armingRead 7 true, [], [], []⟩ } = some ⟨.armingRead 7 true, [], [], []⟩) := by
  decide +kernel

/-- GA holds the port for entry 7, the one ARMING. -/
def arming : State :=
  { guarded ⟨true, 0x1004#22, 0#32, 1#32, .onBreak, .note, none, .arming⟩ with holder := some .ga }

theorem test_meets_ArmingReadDecidesState :
    (arming.holder = some .ga ∧ arming.grant = none ∧ arming.mode ≠ .frozen ∧ (arming.guard 7).state = .arming ∧
      ∀ j < (7 : Fin 8), (arming.guard j).state ≠ .arming) ∧
    (∀ k < 32, (arming.guard 7).mask.getLsbD k = true →
      (arming.word 0x1004#22).getLsbD k = (arming.guard 7).expected.getLsbD k) ∧
    (State.grant { arming with grant := some ⟨.armingRead 7 false, [], [], []⟩ } = some ⟨.armingRead 7 false, [], [], []⟩) := by
  decide +kernel

theorem test_meets_GuardEvaluation :
    let s : State := { guarded ⟨true, 0x1004#22, 0#32, 1#32, .onBoth, .rollbackWriter, none, .isMatch⟩ with
      grant := some ⟨.forwardedWrite (writeBy 1 0x1004#22) (some 2), [], [], []⟩ }
    (s.guard 7).enable = true ∧ (s.guard 7).addr = 0x1004#22 ∧ (s.guard 7).state = .isMatch ∧
      (s.guard 7).trigger = .onBoth ∧ (s.guard 7).mask.getLsbD 0 = true ∧
      BitVec.getLsbD 1#32 0 ≠ (s.guard 7).expected.getLsbD 0 ∧ (s.guard 0).enable = false := by decide +kernel

/-- The hypotheses on what grants do with transitions: a watched write to an unclaimed word and to the writer's own
claim, a watched journalled write at the first slot, a watched restore, and ends of grants. -/
theorem test_meets_GuardEventsAreReported :
    let g (a : Addr) : Guard := ⟨true, a, 0#32, 1#32, .onBoth, .rollbackWriter, none, .isMatch⟩
    (let s := hosting (guarded (g 0x1000#22)) (writeBy 0 0x1000#22) .forwarded
     s.classify (writeBy 0 0x1000#22) = .send .forwarded ∧ s.owner 0x1000#22 = none ∧ (s.guard 7).addr = 0x1000#22) ∧
    (let s := hosting (guarded (g 0x1004#22)) (writeBy 1 0x1004#22) .forwarded
     s.holder = some .hp ∧ s.grant = none ∧ s.classify (writeBy 1 0x1004#22) = .send .forwarded ∧
      s.owner 0x1004#22 = some 2 ∧ (s.source 1).bound = some 2 ∧ (s.guard 7).enable = true ∧ 2 ≤ 2) ∧
    (let s := hosting (guarded (g 0x1000#22)) (writeBy 1 0x1000#22) (.journalled 2 0x0A07#16)
     s.classify (writeBy 1 0x1000#22) = .send (.journalled 2 0x0A07#16) ∧ s.ctx 2 = .active (.opened none) epoch2 ∧
      s.owner 0x1000#22 = none ∧ s.claims.length < 512 ∧ s.claimsHeld 2 < s.limits.qclm ∧
      s.jbase.toNat + Config.segmentWords * s.nseg ≤ Config.memoryWords ∧ (s.target epoch2).seg < s.nseg ∧
      1 ≤ epoch2.fill ∧ ¬ 15 ≤ epoch2.fill) ∧
    (let s : State := { restoring with guards := restoring.guards.set 7 (g 0x1008#22) }
     s.holder = some .be ∧ s.grant = none ∧ s.mode ≠ .frozen ∧ s.work = .idle ∧ s.headJob = some ⟨2, .restore ⟨7, 2⟩⟩ ∧
      (s.slot 7 2).belongs ⟨s.gen, 2, 1, chainIdx epoch2.chain 7, 0x0A07#16⟩ 2 = true ∧ (s.slot 7 2).isKind .pre = true ∧
      (s.slot 7 2).passes = true ∧ s.inWindow 0x1008#22 = false ∧ (s.guard 7).addr = addrField (s.slot 7 2).w1) ∧
    (let h : GuardHit := ⟨7, false, 0x1004#22, some 2, 1, false, true⟩
     let y : Grant := ⟨.forwardedWrite (writeBy 1 0x1004#22) (some 2), [], [h], []⟩
     let s : State := { opened with holder := some .hp, grant := some y }
     s.grant = some y ∧ y.todo = [] ∧ s.holder = some .hp) := by decide +kernel

/-- A watched write of the writer's own claim breaks a match: GUARD with code BREAK + 8 and the index as count, then the
rollback request with cause GUARD (R122, R124). -/
theorem test_guard_breaks_and_rolls_back :
    let s := hosting (guarded ⟨true, 0x1004#22, 0#32, 0x00010000#32, .onBreak, .rollbackWriter, some 2, .isMatch⟩)
      (writeBy 1 0x1004#22) .forwarded
    let t := after (.forwardedWrite .toEnd) s
    t.events.map (fun e => (e.kind, e.ctx, e.src, e.code, e.count)) = [(.guard, some 2, some 1, some 9#8, 7#16)] ∧
      t.ctx 2 = .active (.rollingBack .guard) epoch2 ∧ t.mem = (after (.forwardedWrite (.accesses 2)) s).mem := by
  decide +kernel

/-- A COMMIT taken before the end of the grant whose write makes the match is refused GUARD_HELD, and one after it is
taken (R125). -/
theorem test_commit_before_the_grants_end :
    let g : Guard := ⟨true, 0x1004#22, 0xAABB0000#32, 0xFFFF0000#32, .onMake, .holdCommit, none, .isMismatch⟩
    let s := after (.forwardedWrite (.accesses 2)) (hosting (guarded g) (writeBy 1 0x1004#22) .forwarded)
    (s.guard 7).state = .isMatch ∧ (after (.commit 2#8) s).sdo = [0x88#8] ∧
      (after (.commit 2#8) (after (.forwardedWrite .toEnd) s)).sdo = [0x01#8] := by decide +kernel

/-- A restore that breaks a match holds commits from the end of its grant: a COMMIT of another context before it is
taken (R126). -/
theorem test_commit_during_a_watched_restore :
    let g : Guard := ⟨true, 0x1008#22, 0#32, 0xFFFFFFFF#32, .onMake, .holdCommit, none, .isMatch⟩
    let s : State := { restoring with
      guards := restoring.guards.set 7 g
      contexts := restoring.contexts.set 3 (.active (.opened none) { epoch2 with source := 0, chain := [⟨9, 0⟩] }) }
    let t := after (.restoreStep (.accesses 6)) s
    (t.guard 7).state = .isMismatch ∧ (after (.commit 3#8) t).sdo = [0x01#8] ∧
      (after (.commit 3#8) (after (.restoreStep .toEnd) t)).sdo = [0x88#8] := by decide +kernel

/-- SET_GUARD, then PFAIL#, then the arming row: no grant starts, the port is free and the entry stays ARMING (R119). -/
theorem test_no_arming_read_in_frozen :
    let t := after (.armingRead .toEnd) (after .pfailAsserted
      (after (.setGuard 7#8 1#8 0x001004#24 0#32 1#32 0#8 0#8 8#8) running))
    (t.guard 7).state = .arming ∧ t.holder = none ∧ t.mode = .frozen := by decide +kernel

theorem test_meets_ForwardedReadReturnsWord :
    let s := hosting opened (readAt 0x1004#22) .forwarded
    s.holder = some .hp ∧ s.grant = none ∧ s.access = some ⟨readAt 0x1004#22, .toMemory .forwarded, none⟩ ∧
      s.classify (readAt 0x1004#22) = .send .forwarded := by decide +kernel

theorem test_meets_ForwardedWriteStoresBytes :
    (let s := hosting opened (writeBy 1 0x1004#22) .forwarded
     s.holder = some .hp ∧ s.grant = none ∧ s.classify (writeBy 1 0x1004#22) = .send .forwarded ∧
      s.owner 0x1004#22 = some 2 ∧ (s.source 1).bound = some 2 ∧ s.ctx 2 = .active (.opened none) epoch2 ∧
      ∀ i, (s.guard i).enable = true → (s.guard i).addr ≠ 0x1004#22) ∧
    (let s := hosting opened (writeBy 0 0x3FFFFF#22) .forwarded
     s.classify (writeBy 0 0x3FFFFF#22) = .send .forwarded ∧ s.owner 0x3FFFFF#22 = none) := by decide +kernel

/-- The hypotheses of the two statements on journalled writes, with the segment boundary (fill 15) and the first write
(fill 1). -/
theorem test_meets_JournalledWrite_at_boundary :
    let s := hosting boundary write2 (.journalled 3 0x0201#16)
    let e : Epoch := ⟨0, 0x0201#16, [⟨6, 0⟩], 15, true, 14, 0, false⟩
    s.holder = some .hp ∧ s.grant = none ∧ s.classify write2 = .send (.journalled 3 0x0201#16) ∧
      s.ctx 3 = .active (.opened (some ⟨90, 0⟩)) e ∧ s.owner write2.addr = none ∧ s.claims.length < 512 ∧
      s.claimsHeld 3 < s.limits.qclm ∧ s.jbase.toNat + Config.segmentWords * s.nseg ≤ Config.memoryWords ∧ e.chain ≠ [] ∧
      e.fill = 15 ∧ e.chain.length < s.limits.qseg ∧ s.pool ≠ [] ∧ (s.target e).seg < s.nseg ∧ (s.target e).idx < 256 := by
  decide +kernel

theorem test_meets_JournalledWrite_first :
    let e : Epoch := { epoch2 with fill := 1, headerWritten := false, preWritten := 0 }
    let s := hosting { empty with contexts := empty.contexts.set 2 (.active (.opened none) e) } (writeBy 1 0x1000#22)
      (.journalled 2 0x0A07#16)
    s.classify (writeBy 1 0x1000#22) = .send (.journalled 2 0x0A07#16) ∧ s.owner 0x1000#22 = none ∧
      (s.target e).slot = 1 ∧ (s.target e).seg < s.nseg ∧ e.fill = 1 := by decide +kernel

/-- Context 2 at fill 15 with an empty pool: JOURNAL_FULL; and at its claim limit: QUOTA. -/
def short (j : JFull) (q : Nat) : State :=
  hosting { opened with
    pool := [], limits := { Limits.reset with jfull := j, qclm := q }
    contexts := opened.contexts.set 2 (.active (.opened none) { epoch2 with fill := 15 }) }
    (writeBy 1 0x1000#22) (.journalled 2 0x0A07#16)

theorem test_meets_GrantStartMayEndGrant :
    (let s := short .abort 64
     s.classify (writeBy 1 0x1000#22) = .send (.journalled 2 0x0A07#16) ∧ s.claims.length < 512 ∧
      s.claimsHeld 2 < s.limits.qclm ∧ 15 ≤ 15 ∧ epoch2.chain.length < s.limits.qseg ∧ s.pool = [] ∧
      s.limits.jfull = .abort ∧ s.claimsHeld 2 ≠ 0) ∧
    (let s := short .hold 2
     s.limits.qclm ≤ s.claimsHeld 2 ∧ s.limits.jfull = .hold) ∧
    (let s := hosting { opened with sources := opened.sources.set 1 ⟨none, false⟩ } (writeBy 1 0x1000#22)
      (.journalled 2 0x0A07#16)
     s.classify (writeBy 1 0x1000#22) = .send .forwarded) ∧
    (let s : State := { short .abort 64 with claims := [] }
     s.claimsHeld 2 = 0 ∧ s.ctx 2 = .active (.opened none) { epoch2 with fill := 15 } ∧
      (s.counter 1 .capacity).value + 1#8 ≠ (s.settings .capacity).threshold) ∧
    (let s : State := { short .abort 64 with groups := (short .abort 64).groups.set 1 ⟨1#8, .saturate, 4#3⟩ }
     (s.counter 1 .capacity).value ≠ 255#8 ∧ (s.counter 1 .capacity).value + 1#8 = (s.settings .capacity).threshold) ∧
    (let s := hosting (queued .discarding) (readAt 0x1004#22) .forwarded
     s.mode ≠ .frozen ∧ s.classify (readAt 0x1004#22) = .hold ∧ (readAt 0x1004#22).write = false) ∧
    (let s := hosting (faulted .check) (writeBy 1 0x1004#22) .forwarded
     s.classify (writeBy 1 0x1004#22) = .refused .lockedWord ∧ (writeBy 1 0x1004#22).write = true) ∧
    (let s := hosting { opened with sources := opened.sources.set 1 ⟨some 2, false⟩ } (writeBy 1 0x1000#22) .forwarded
     s.classify (writeBy 1 0x1000#22) = .send (.journalled 2 0x0A07#16)) := by decide +kernel

/-- With JFULL = ABORT an empty epoch is freed at once: ROLLED_BACK, code CAPACITY, count 0 (R82). -/
theorem test_capacity_abort_of_an_empty_epoch :
    let t := after (.journalledWriteGrant .toEnd) { short .abort 64 with claims := [] }
    t.ctx 2 = .free ∧ t.pool = [7] ∧ t.lastEnding = some (.refused .journalFull) ∧
      t.events.map (fun e => (e.kind, e.code, e.count)) = [(.rolledBack, some 4#8, 0#16)] := by decide +kernel

/-- With the capacity request taken first, the count that reaches the threshold still makes the ABORT request: the
THRESHOLD event names the context with code 1 + 8 (R82, R132). -/
theorem test_capacity_first_makes_both_requests :
    let s : State := { opened with groups := opened.groups.set 1 ⟨1#8, .saturate, 5#3⟩ }
    let t := (s.requestRollback 2 .capacity).countBound 1 .capacity (s.source 1).bound
    t.ctx 2 = .active (.rollingBack .capacity) epoch2 ∧
      t.events.map (fun e => (e.kind, e.ctx, e.code)) = [(.threshold, some 2, some 9#8)] := by decide +kernel

/-- A full Claim Table holds 512 claims. -/
theorem test_meets_GrantStartMayEndGrant_full :
    512 ≤ ((List.range 512).map fun k => (⟨BitVec.ofNat 22 k, 0⟩ : Claim)).length := by simp

theorem test_meets_HeadJobIsChosen :
    (let s := queued (.rollingBack .idle)
     s.job = none ∧ s.queue = ⟨2, none⟩ :: [] ∧ s.ctx 2 = .active (.rollingBack .idle) epoch2 ∧
      epoch2.chain.getLast? = some ⟨7, 0⟩ ∧ 2 ≤ epoch2.fill) ∧
    (queued .committing).ctx 2 = .active .committing epoch2 ∧ epoch2.markerWritten = false ∧ running.queue = [] ∧
    List.Pairwise (fun (a b : ChainEntry) => a.seg ≠ b.seg) ([] ++ ⟨6, 0⟩ :: ⟨10, 1⟩ :: []) := by decide +kernel

theorem test_meets_MarkersAreWritten :
    let s := granted .discarding
    s.holder = some .be ∧ s.grant = none ∧ s.mode ≠ .frozen ∧ s.work = .idle ∧ s.headJob = some ⟨2, .marker⟩ ∧
      s.ctx 2 = .active .discarding epoch2 ∧ epoch2.chain.getLast? = some ⟨7, 0⟩ ∧
      s.jbase.toNat + Config.segmentWords * s.nseg ≤ Config.memoryWords ∧ 7 < s.nseg ∧ epoch2.fill ≤ 15 := by
  decide +kernel

/-- The hypotheses of the two statements on restore steps, for a restorable record. -/
theorem test_meets_RestoreStep :
    let s := restoring
    s.holder = some .be ∧ s.grant = none ∧ s.mode ≠ .frozen ∧ s.work = .idle ∧ s.headJob = some ⟨2, .restore ⟨7, 2⟩⟩ ∧
      s.ctx 2 = .active (.rollingBack .abortCmd) epoch2 ∧
      (s.slot 7 2).belongs ⟨s.gen, 2, 1, 0, 0x0A07#16⟩ 2 = true ∧ (s.slot 7 2).isKind .pre = true ∧
      (s.slot 7 2).passes = true ∧ s.inWindow (addrField (s.slot 7 2).w1) = false ∧ 7 < s.nseg := by decide +kernel

/-- The other findings of a restore step: RESTORED already, foreign, failing its check, and in the window. -/
theorem test_meets_RestoreStep_findings :
    (let r := { pre2 with w0 := withKind 3#4 pre2.w0 }
     r.belongs ⟨5#8, 2, 1, 0, 0x0A07#16⟩ 2 = true ∧ r.isKind .restored = true ∧ r.passes = true) ∧
    ((granted (.rollingBack .abortCmd)).slot 7 2).belongs ⟨5#8, 2, 1, 0, 0x0A07#16⟩ 2 = false ∧
    (let r := { pre2 with w2 := 0#32 }
     r.belongs ⟨5#8, 2, 1, 0, 0x0A07#16⟩ 2 = true ∧ r.isKind .pre = true ∧ r.passes = false) ∧
    (let r := preRecord 5#8 2 1 0 2 0x0A07#16 0x2000#22 0#32
     r.passes = true ∧ restoring.inWindow (addrField r.w1) = true) := by decide +kernel

/-- The job of context 2 in recovery's replay. -/
def replaying (p : Phase) : State := { granted p with mode := .recovering, work := .replay (judging []) }

theorem test_meets_RestoreStep_in_replay :
    let s := replaying (.rollingBack .recovery)
    s.work = .replay (judging []) ∧ s.queue ≠ [] ∧ s.mode = .recovering ∧ s.queue.tail = [] ∧
      s.headJob = some ⟨2, .restore ⟨7, 2⟩⟩ ∧ (State.queue { s with queue := [⟨2, none⟩, ⟨3, none⟩] }).tail ≠ [] := by
  decide +kernel

/-- A restore step of replay, to be cut by a reset. -/
theorem test_meets_CutRestoreKeepsRecord_in_replay :
    let s : State := { restoring with mode := .recovering, work := .replay (judging []) }
    let t := after (.restoreStep (.accesses 5)) s
    exec (.restoreStep (.accesses 5)) s = .next t ∧ exec .reset t = .next (after .reset t) ∧
      (s.mode ≠ .frozen ∧ s.work = .replay (judging []) ∧ s.headJob = some ⟨2, .restore ⟨7, 2⟩⟩ ∧
        (after .reset t).word 0x1008#22 = 0x11223344#32) := ⟨rfl, rfl, by decide +kernel⟩

/-- A foreign record in the last job of recovery's replay: FAULTED with origin RECOVERY, and the claim rebuild begins
with the context's segment (R106, R151, R152). -/
theorem test_fault_in_replay :
    let t := after (.restoreStep .toEnd) (replaying (.rollingBack .recovery))
    t.ctx 2 = .active (.faulted .recovery ⟨.foreign, .recovery, some ⟨7, 2⟩⟩) epoch2 ∧
      t.work = .rebuild (judging []) [(2, ⟨7, 0⟩)] ∧ t.mode = .recovering := by decide +kernel

theorem test_meets_FreeingStepReturnsSegment :
    let s := granted .committing
    let t : State := { s with contexts := s.contexts.set 2 (.active .committing { epoch2 with markerWritten := true }) }
    t.holder = some .be ∧ t.grant = none ∧ t.mode ≠ .frozen ∧ t.work = .idle ∧ t.headJob = some ⟨2, .freeing⟩ ∧
      t.ctx 2 = .active .committing { epoch2 with markerWritten := true } ∧ epoch2.chain = ⟨7, 0⟩ :: [] := by decide +kernel

/-- The last FREEING step of recovery's replay: the rolled-back epoch is counted and RECOVERY_DONE follows ROLLED_BACK
(R151, R152). -/
theorem test_last_freeing_step_in_replay :
    let s := replaying (.rollingBack .recovery)
    let t := after (.freeingStep .toEnd)
      { s with contexts := s.contexts.set 2 (.active (.rollingBack .recovery) { epoch2 with markerWritten := true }) }
    t.mode = .run ∧ t.ctx 2 = .free ∧
      t.events.map (fun e => (e.kind, e.code, e.count)) =
        [(.rolledBack, some 6#8, 2#16), (.recoveryDone, some 0#8, 0x0100#16)] := by decide +kernel

theorem test_meets_FormatStepsWriteBlanks :
    let s := { recovering (.format 15) with mode := .formatting }
    State.holder s = some .be ∧ s.grant = none ∧ s.work = .format 15 ∧ s.mode = .formatting ∧ 15 + 1 = s.nseg ∧
      s.jbase.toNat + Config.segmentWords * s.nseg ≤ Config.memoryWords := by decide +kernel

/-- A live header in slot 0 of segment 15. -/
def header15 : State := stored (recovering (.survey 15 [live 7 0])) 15 0 (headerRecord 5#8 2 1 1 15 0x0A07#16)

theorem test_meets_SurveyReadsHeaders :
    header15.holder = some .be ∧ header15.grant = none ∧ header15.work = .survey 15 [live 7 0] ∧
      header15.mode = .recovering ∧ 15 + 1 = header15.nseg ∧ (header15.slot 15 0).passes = true ∧
      (header15.slot 15 0).isKind .header = true ∧ genField (header15.slot 15 0).w0 = header15.gen ∧
      slotField (header15.slot 15 0).w0 = 0 ∧ (header15.slot 15 0).w1 = BitVec.ofNat 32 15 ∧
      (groupOf [live 7 0, live 15 1] 2).head? = some (live 7 0) := by decide +kernel

/-- The function of the last clause: which contexts have a consistent chain, with one that has and with none. -/
theorem test_meets_SurveyReadsHeaders_whole (kept : List LiveSeg) :
    ∀ c, isConsistent (groupOf kept c) = true ↔ ∃ x, (groupOf kept c).head? = some x ∧
      (∀ y ∈ groupOf kept c, y.src = x.src ∧ y.seq = x.seq) ∧
      (∀ k y, (groupOf kept c)[k]? = some y → y.idx = x.idx + k) :=
  fun c => isConsistent_iff (groupOf kept c)

theorem test_meets_SurveyReadsHeaders_clauses :
    ([0, 1, 2, 3, 4, 5, 6, 7] : List CtxNum).filter (fun c => isConsistent (groupOf [live 7 0, live 15 1] c)) ≠ [] ∧
    ([0, 1, 2, 3, 4, 5, 6, 7] : List CtxNum).filter (fun c => isConsistent (groupOf [live 7 0, live 15 2] c)) = [] := by
  decide +kernel

/-- The last survey grant finds the chain of context 2 consistent and its judgement begins, while the group of context 5,
with chain indices 0 and 2, is FAULTED with its event: code RECOVERY, count 0, address none (R147, R148). -/
theorem test_survey_ends_with_faults_and_judgement :
    let found : List LiveSeg := [live 7 0, ⟨8, 5, 3, 0, 0x0A08#16⟩, ⟨9, 5, 3, 2, 0x0A08#16⟩]
    let t := after (.surveyStep .toEnd) { header15 with work := .survey 15 found }
    t.work = .judge ⟨found ++ [live 15 1], [2], [], 0, 0⟩ none ∧
      t.events = [⟨.faulted, 0#8, some 5, some 3, some 6#8, .recovering, 0#16, none⟩] := by decide +kernel

/-- A COMMIT marker in slot 1 of segment 7. -/
def marked7 : State :=
  stored (recovering (.judge (judging [live 7 0]) none)) 7 1 (markerRecord .commit 0#32 5#8 2 1 0 1 0x0A07#16 0)

theorem test_meets_FinalSegmentIsJudged :
    marked7.holder = some .be ∧ marked7.work = .judge (judging [live 7 0]) none ∧ marked7.mode = .recovering ∧
      (judging [live 7 0]).toJudge = 2 :: [] ∧ (groupOf [live 7 0] 2).getLast? = some (live 7 0) ∧
      (groupOf [live 7 0] 2).head? = some (live 7 0) ∧
      (marked7.slot 7 1).belongs ⟨5#8, 2, 1, 0, 0x0A07#16⟩ 1 = true ∧ (marked7.slot 7 1).isKind .commit = true ∧
      (marked7.slot 7 1).passes = true := by decide +kernel

theorem test_meets_OtherSegmentsAreJudged :
    let q : JudgeScan := ⟨1, 0, [⟨7, 0⟩], 0, 0⟩
    let s := recovering (.judge (judging [live 7 0, live 9 1]) (some q))
    s.holder = some .be ∧ s.grant = none ∧ s.mode = .recovering ∧ q.left = ⟨7, 0⟩ :: [] ∧
      (groupOf [live 7 0, live 9 1] 2).getLast? = some (live 9 1) ∧
      (s.slot 7 1).belongs ⟨5#8, 2, 1, 0, 0x0A07#16⟩ 1 = false ∧
      s.work = .judge (judging [live 7 0, live 9 1]) (some q) ∧ (judging [live 7 0, live 9 1]).toJudge = 2 :: [] ∧
      (groupOf [live 7 0, live 9 1] 2).head? = some (live 7 0) ∧ 1 ≤ 14 := by decide +kernel

/-- A marker in a segment other than the final one, and the states in which jobs are queued: by marker, by a record of
the last segment, by the one before it, and with no record at all. -/
theorem test_meets_OtherSegmentsAreJudged_clauses :
    (let s := stored (recovering (.judge (judging [live 7 0, live 9 1]) (some ⟨1, 0, [⟨7, 0⟩], 0, 0⟩))) 7 1
      (markerRecord .commit 0#32 5#8 2 1 0 1 0x0A07#16 0)
     (s.slot 7 1).belongs ⟨5#8, 2, 1, 0, 0x0A07#16⟩ 1 = true ∧ (s.slot 7 1).isKind .commit = true) ∧
    ((queued .committing).ctx 2 = .active .committing epoch2 ∧ (queued .discarding).ctx 2 = .active .discarding epoch2) ∧
    ((queued (.rollingBack .recovery)).ctx 2 = .active (.rollingBack .recovery) epoch2 ∧ epoch2.markerWritten = false ∧
      epoch2.chain = [] ++ [⟨7, 0⟩] ∧ 2 ≤ epoch2.fill) ∧
    (({ epoch2 with fill := 1 } : Epoch).fill ≤ 1 ∧ ({ epoch2 with chain := [⟨7, 0⟩, ⟨9, 1⟩] } : Epoch).chain = ([] ++ [⟨7, 0⟩]) ++ [⟨9, 1⟩]) ∧
    (running.ctx 2).hasJob = false ∧ (recovering .idle).mode = .recovering ∧ (recovering .idle).queue = [] := by
  decide +kernel

/-- A COMMIT in a segment other than the final one faults CHAIN with the event's code RECOVERY (R147, R149). -/
theorem test_misplaced_marker_faults_chain :
    let s := stored (recovering (.judge (judging [live 7 0, live 9 1]) (some ⟨1, 0, [⟨7, 0⟩], 0, 0⟩))) 7 1
      (markerRecord .commit 0#32 5#8 2 1 0 1 0x0A07#16 0)
    let t := after (.judgementSegment .toEnd) s
    t.ctx 2 = .active (.faulted .recovery ⟨.chain, .recovery, none⟩)
        ⟨1, 0x0A07#16, [⟨7, 0⟩, ⟨9, 1⟩], 15, true, 0, 0, false⟩ ∧
      t.events.map (fun e => (e.kind, e.code)) = [(.faulted, some 6#8)] := by decide +kernel

/-- The claim rebuild of context 2, faulted at slot 2 of segment 7; the record in slot 1 is taken. -/
def rebuilding : State :=
  stored { recovering (.rebuild (judging []) [(2, ⟨7, 0⟩)]) with
    contexts := (faulted .check).contexts } 7 1 (preRecord 5#8 2 1 0 1 0x0A07#16 0x1010#22 0x11223344#32)

theorem test_meets_RebuildClaimsRecords :
    rebuilding.holder = some .be ∧ rebuilding.grant = none ∧ rebuilding.mode = .recovering ∧
      rebuilding.ctx 2 = .active (.faulted .idle (faultAt .check)) epoch2 ∧ (faultAt .check).kind ≠ .chain ∧
      (rebuilding.slot 7 1).belongs ⟨5#8, 2, 1, 0, 0x0A07#16⟩ 1 = true ∧ (rebuilding.slot 7 1).passes = true ∧
      (rebuilding.slot 7 1).isKind .pre = true ∧ (faultAt .check).pos ≠ some ⟨7, 1⟩ ∧
      rebuilding.work = .rebuild (judging []) ((2, ⟨7, 0⟩) :: []) := by decide +kernel

/-- The faulty record is not claimed: a PRE record at the fault position whose word lies in the window (R18, R102
order 4), while a record at another position is. -/
theorem test_faulty_record_is_not_claimed :
    let s := stored rebuilding 7 2 (preRecord 5#8 2 1 0 2 0x0A07#16 0x2000#22 0#32)
    (after (.claimRebuild .toEnd) { s with claims := [] }).claims = [⟨0x1010#22, 2⟩] := by decide +kernel

/-- The same for a context FAULTED with kind CHAIN, and the two ends of replay. -/
theorem test_meets_RebuildClaimsRecords_chain :
    (let s : State := { rebuilding with contexts := (faulted .chain).contexts }
     s.ctx 2 = .active (.faulted .idle (faultAt .chain)) epoch2 ∧ (faultAt .chain).kind = .chain ∧
      (judging [live 7 0]).found.find? (fun y => y.seg == 7) = some (live 7 0)) ∧
    ((judging []).found = [] ∧ live 7 0 ∈ (judging [live 7 0]).found ∧
      ∀ y ∈ (judging [live 7 0]).found, y.seq.toNat ≤ (live 7 0).seq.toNat) := by decide +kernel

/-- The end of replay sets the epoch counter one above the largest live sequence and goes on with the rebuild (R152). -/
theorem test_replay_ends_with_the_next_sequence :
    let t := rebuilding.finishReplay (judging [live 7 0])
    t.epochSeq = 0x0A08#16 ∧ t.work = .rebuild (judging [live 7 0]) [(2, ⟨7, 0⟩)] ∧ t.mode = .recovering := by
  decide +kernel

theorem test_meets_PowerFailureFreezes :
    running.inReset = false ∧ running.mode ≠ .frozen ∧ running.access = none ∧
      ((hosting running (readAt 0#22) .forwarded).holder = some .hp ∧
        (waiting running (readAt 0#22) .forwarded).holder ≠ some .hp) ∧
      (holding running (readAt 0#22) .conflict 1).access = some ⟨readAt 0#22, .held .conflict, some 1⟩ := by decide +kernel

theorem test_meets_ResetReturnsToGated :
    exec .reset running = .next (after .reset running) ∧ (after .reset running).pfail = false ∧
      (after .reset { running with pfail := true }).pfail = true := ⟨rfl, rfl, rfl⟩

theorem test_meets_FrozenAnswersReadsAlone :
    let s : State := { opened with mode := .frozen }
    s.inReset = false ∧ s.mode = .frozen ∧ (Instr.isFrame (.commit 2#8) = true ∧ Instr.isAnsweredInFrozen (.commit 2#8) = false) ∧
      (Instr.isFrame (.getContext 2#8) = true ∧ Instr.isAnsweredInFrozen (.getContext 2#8) = true) ∧
      Instr.getContext 2#8 ≠ .getStatus := by decide +kernel

/-- The start step of a given grant, a start step that ends its grant at once, and a given arming grant. -/
theorem test_meets_PowerFailureFreezes_given :
    (let s := hosting opened (readAt 0x1004#22) .forwarded
     let t := after (.forwardedRead (.accesses 0)) s
     exec (.forwardedRead (.accesses 0)) s = .next t ∧
      (s.grant = none ∧ s.classify (readAt 0x1004#22) = .send .forwarded ∧ t ≠ s ∧ t.grant ≠ none)) ∧
    (let s := hosting (faulted .check) (readAt 0x1004#22) .forwarded
     let t := after (.forwardedRead (.accesses 0)) s
     exec (.forwardedRead (.accesses 0)) s = .next t ∧ (t ≠ s ∧ t.grant = none)) ∧
    (arming.holder = some .ga ∧ arming.grant = none ∧ arming.access = none) :=
  ⟨⟨rfl, by decide +kernel⟩, ⟨rfl, by decide +kernel⟩, rfl, rfl, rfl⟩

/-- PFAIL# after a COMMIT that found the port free: the marker grant in progress completes, BE is the last holder, and
no further step is made (R76, R77, R113). -/
theorem test_given_grant_completes_in_frozen :
    let t := after (.commitMarker .toEnd) (after .pfailAsserted (after (.commit 2#8) opened))
    kindField (t.slot 7 3).w0 = 4#4 ∧ t.claims = [] ∧ t.mode = .frozen ∧ t.holder = none ∧ t.lastHolder = .be ∧
      after (.freeingStep .toEnd) t = t := by decide +kernel

/-- PFAIL# during a grant whose start step found a capacity outcome, under REFUSE and under HOLD (R92). -/
theorem test_pfail_after_a_capacity_outcome :
    (let t := after .pfailAsserted (short .refuse 64)
     t.lastEnding = some (.refused .journalFull) ∧ (t.counter 1 .capacity).value = 1#8 ∧ t.lastHolder = .hp) ∧
    (let t := after .pfailAsserted (short .hold 64)
     t.lastEnding = some (.refused .frozen) ∧ (t.counter 1 .capacity).value = 0#8 ∧ t.access = none) := by decide +kernel

/-- Steps in FROZEN: with no grant, and with a grant of the host path in progress, which ends. -/
theorem test_meets_PowerFailureFreezes_steps :
    (let s : State := { opened with mode := .frozen, pending := [.gate] }
     s.mode = .frozen ∧ s.pending.head? ≠ some .reset ∧ s.holder = none ∧ s.grant = none ∧
      step s = .next (after .gate { s with pending := [] })) ∧
    (let s := after .pfailAsserted (after (.forwardedRead (.accesses 0)) (hosting opened (readAt 0x1004#22) .forwarded))
     s.mode = .frozen ∧ s.holder = some .hp ∧ (after (.forwardedRead .toEnd) s).holder = none ∧
      (after (.forwardedRead .toEnd) s).lastHolder = .hp) :=
  ⟨⟨rfl, by decide, rfl, rfl, rfl⟩, by decide +kernel⟩

theorem test_meets_ArbiterRotates :
    let s := waiting (queued .committing) (readAt 0#22) .forwarded
    s.holder = none ∧ s.mode ≠ .frozen ∧ s.inReset = false ∧ s.waits .hp = true ∧ s.waits .be = true ∧
      s.waits .ga = false ∧ s.lastHolder = .ga ∧ (∀ r : Requester, State.reset.waits r = false) ∧
      (granted .committing).holder ≠ none := by
  refine ⟨rfl, by decide, rfl, by decide +kernel, by decide +kernel, by decide +kernel, rfl, ?_, by decide⟩
  intro r
  cases r <;> decide +kernel

theorem test_meets_OnlyGrantsTouchMemory :
    Instr.isGrant (.hostAccessStart 0#22 0#4 0 true 0#32) = false ∧ exec .getId State.reset = .next (after .getId State.reset) :=
  ⟨rfl, rfl⟩

/-- In RUN with every context FREE the law of the bindings holds. -/
theorem running_bindings : running.BindingsProper := by
  have hs : ∀ i, (running.source i).bound = none := by decide +kernel
  have hc : ∀ c, running.ctx c = .free := by decide +kernel
  refine ⟨fun i c h => ?_, fun c t e h => ?_, fun h => absurd rfl h, fun _ => rfl, fun h => ?_⟩
  · rw [hs i] at h; cases h
  · rw [hc c] at h; cases h
  · cases h

theorem running_queue : running.QueueProper := ⟨List.nodup_nil, nofun, nofun, nofun, fun _ => rfl, fun _ => rfl⟩

theorem test_meets_ModeChangesAsListed :
    running.BindingsProper ∧ exec .pfailAsserted running = .next (after .pfailAsserted running) ∧
      (after .pfailAsserted running).mode ≠ running.mode := ⟨running_bindings, rfl, by decide +kernel⟩

theorem test_meets_laws_of_every_step :
    Memory.wf restoring.mem = true ∧ fullEvents.events.length ≤ 32 ∧ opened.claims.length ≤ 512 ∧
      (opened.claims.map (·.addr)).Nodup ∧ step opened = .next opened.tick := by
  refine ⟨by decide +kernel, by decide +kernel, by decide, by decide +kernel, rfl⟩

theorem test_meets_StepKeepsBindingsAndQueue :
    running.BindingsProper ∧ running.QueueProper ∧ step running = .next running.tick :=
  ⟨running_bindings, running_queue, rfl⟩

theorem test_meets_StepConservesSegments :
    let s : State := { opened with pending := [.openEpoch 0#8] }
    s.work = .idle ∧ s.mode ≠ .gated ∧ s.pending.head? ≠ some .reset ∧
      step s = .next (after (.openEpoch 0#8) opened) ∧ (after (.openEpoch 0#8) opened).chainSegs = [3, 7] := by
  refine ⟨rfl, by decide, by decide, rfl, by decide +kernel⟩

/-- A segment other than the final one whose slots 1 to 14 all hold records of the epoch. -/
def fullSegment : State :=
  (List.range' 1 14).foldl (fun s k => stored s 7 k (preRecord 5#8 2 1 0 k 0x0A07#16 0x1008#22 0#32))
    (recovering (.judge (judging [live 7 0, live 9 1]) (some ⟨1, 0, [⟨7, 0⟩], 0, 0⟩)))

theorem test_meets_OtherSegmentsAreJudged_full :
    ∀ j : Fin 14, (fullSegment.slot 7 (j.val + 1)).belongs ⟨5#8, 2, 1, 0, 0x0A07#16⟩ (j.val + 1) = true ∧
      (fullSegment.slot 7 (j.val + 1)).isKind .commit = false ∧ (fullSegment.slot 7 (j.val + 1)).isKind .abort = false := by
  decide +kernel

/-- The other findings in a final segment: an ABORT marker with each flag, a torn tail, no record at all, and a slot 15
that holds a PRE record. -/
theorem test_meets_FinalSegmentIsJudged_findings :
    (let r := markerRecord .abort 1#32 5#8 2 1 0 15 0x0A07#16 14
     r.belongs ⟨5#8, 2, 1, 0, 0x0A07#16⟩ 15 = true ∧ r.isKind .abort = true ∧ r.passes = true ∧ r.w2 = 1#32) ∧
    (markerRecord .abort 0#32 5#8 2 1 0 1 0x0A07#16 0).w2 = 0#32 ∧
    (let s := stored (recovering (.judge (judging [live 7 0]) none)) 7 1 { pre2 with w0 := pre2.w0 - 0x100#32 }
     (s.slot 7 1).belongs ⟨5#8, 2, 1, 0, 0x0A07#16⟩ 1 = true ∧ (s.slot 7 1).passes = false ∧
      (s.slot 7 2).belongs ⟨5#8, 2, 1, 0, 0x0A07#16⟩ 2 = false) ∧
    ((recovering .idle).slot 7 1).belongs ⟨5#8, 2, 1, 0, 0x0A07#16⟩ 1 = false ∧
    (let r := preRecord 5#8 2 1 0 15 0x0A07#16 0x1008#22 0#32
     r.belongs ⟨5#8, 2, 1, 0, 0x0A07#16⟩ 15 = true ∧ r.isKind .pre = true ∧ r.passes = true) := by decide +kernel

/-- A whole chain of two segments whose final one holds no record, a remnant, and an ABORT marker with another flag. -/
theorem test_meets_FinalSegmentIsJudged_longer :
    (groupOf [live 7 0, live 9 1] 2).head? = some (live 7 0) ∧ (live 7 0).idx = 0 ∧
      2 ≤ (groupOf [live 7 0, live 9 1] 2).length ∧ (groupOf [live 9 1] 2).head? = some (live 9 1) ∧
      (live 9 1).idx ≠ 0 ∧ ((recovering .idle).slot 9 1).belongs ⟨5#8, 2, 1, 1, 0x0A07#16⟩ 1 = false ∧
      (markerRecord .abort 7#32 5#8 2 1 0 1 0x0A07#16 0).passes = true := by decide +kernel

/-- The first read of a whole chain of two segments goes on to the other one (R148, R149); a remnant with no marker
faults CHAIN with its event, and the next chain follows (R147). -/
theorem test_final_segment_goes_on_or_faults :
    (let v := judging [live 7 0, live 9 1]
     (after (.judgementFinalSegment .toEnd) (recovering (.judge v none))).work = .judge v (some ⟨1, 0, [⟨7, 0⟩], 0, 0⟩)) ∧
    (let v : Recovery := ⟨[live 9 1, ⟨10, 3, 0, 0, 7#16⟩], [2, 3], [], 0, 0⟩
     let t := after (.judgementFinalSegment .toEnd) (recovering (.judge v none))
     t.work = .judge { v with toJudge := [3] } none ∧
      t.events.map (fun e => (e.kind, e.ctx, e.code, e.count)) = [(.faulted, some 2, some 6#8, 0#16)]) := by decide +kernel

/-- Slot 0 of a segment that nothing has written holds no live header. -/
theorem test_meets_SurveyReadsHeaders_not_live : (running.slot 3 0).isKind .header = false := by decide +kernel

end Sys2Proof.Tests
end

section
/-! SUPPORT. OPEN (R6, R7) and TOUCH (R14): the mode check they begin with, what each answers per case, and the two statements. -/

namespace Sys2Proof.Machine

variable {s : State}

/-! ### A frame that asks for RUN -/

theorem State.runFrame_of_ne (hr : s.inReset = false) (hm : s.mode ≠ .run) (f : State → State) :
    (s.frame fun s => if s.mode ≠ .run then s.answer .wrongMode else f s) = s.replied [0x82#8] := by
  rw [State.frame_eq hr, if_pos hm]; rfl

theorem State.runFrame_of_run (hr : s.inReset = false) (hm : s.mode = .run) (f : State → State) :
    (s.frame fun s => if s.mode ≠ .run then s.answer .wrongMode else f s) = f s := by
  rw [State.frame_eq hr, if_neg (not_not.2 hm)]

/-! ### OPEN -/

/-- What OPEN does once the mode and the source number are in order: the rest of R6, then R7. -/
def State.openFor (s : State) (i : SrcNum) : State :=
  if (s.source i).fenced then s.answer .fenced
  else if (s.source i).bound.isSome then s.answer .alreadyOpen
  else
    match s.freeContext, s.pool with
    | none, _ => s.answer .noContext
    | some _, [] => s.answer .noSegment
    | some c, seg :: rest =>
      (((s.openWith c i seg rest).respond .ok (byte1 c.val :: be16 s.epochSeq)).deliver ⟨some i, [], false⟩).arbitrate

theorem exec_openEpoch_of_ne_run (hr : s.inReset = false) (hm : s.mode ≠ .run) (b : Byte) :
    exec (.openEpoch b) s = .next (s.replied [0x82#8]) :=
  congrArg _ (State.runFrame_of_ne hr hm _)

theorem exec_openEpoch_of_bad_source {b : Byte} (hr : s.inReset = false) (hm : s.mode = .run) (hb : 3 < b.toNat) :
    exec (.openEpoch b) s = .next (s.replied [0x81#8]) :=
  congrArg _ ((State.runFrame_of_run hr hm _).trans (by rw [asSource_none hb]; rfl))

theorem exec_openEpoch_of_source {b : Byte} {i : SrcNum} (hr : s.inReset = false) (hm : s.mode = .run)
    (hb : b.toNat = i.val) : exec (.openEpoch b) s = .next (s.openFor i) :=
  congrArg _ ((State.runFrame_of_run hr hm _).trans (by rw [asSource_of hb]; rfl))

section
variable {i : SrcNum}

theorem State.openFor_of_fenced (hf : (s.source i).fenced = true) : s.openFor i = s.replied [0x8A#8] := by
  rw [State.openFor, if_pos hf]; rfl

theorem State.openFor_of_bound (hf : (s.source i).fenced = false) (hb : (s.source i).bound ≠ none) :
    s.openFor i = s.replied [0x85#8] := by
  rw [State.openFor, if_neg (by simp [hf]), if_pos (Option.isSome_iff_ne_none.2 hb)]; rfl

variable (hf : (s.source i).fenced = false) (hb : (s.source i).bound = none)
include hf hb

theorem State.openFor_of_no_context (hc : ∀ c, s.ctx c ≠ .free) : s.openFor i = s.replied [0x86#8] := by
  simp only [State.openFor, hf, hb, State.freeContext_none s hc]; rfl

theorem State.openFor_of_no_segment (hc : ∃ c, s.ctx c = .free) (hp : s.pool = []) :
    s.openFor i = s.replied [0x87#8] := by
  obtain ⟨c, hfree⟩ := State.freeContext_exists s hc
  simp only [State.openFor, hf, hb, hfree, hp]; rfl

theorem State.openFor_taken {c : CtxNum} {n : Nat} {rest : List Nat} (hc : s.ctx c = .free)
    (hl : ∀ d < c, s.ctx d ≠ .free) (hp : s.pool = n :: rest) :
    s.openFor i = (((s.openWith c i n rest).replied (0x00#8 :: BitVec.ofNat 8 c.val :: be16 s.epochSeq)).deliver
      ⟨some i, [], false⟩).arbitrate := by
  simp only [State.openFor, hf, hb, State.freeContext_some s c hc hl, hp]; rfl

end

/-- Binding a source that is not fenced leaves it not fenced (R4, R133). -/
theorem State.bind_of_not_fenced {i : SrcNum} (hf : (s.source i).fenced = false) (b : Option CtxNum) :
    s.bind i b = s.setSource i ⟨b, false⟩ := by
  rw [State.bind, hf]

/-- R7 for a source that is not fenced; the taking is one segment, so the free count before it is one more (R42). -/
theorem State.openWith_of_not_fenced {i : SrcNum} {n : Nat} {rest : List Nat} (hf : (s.source i).fenced = false)
    (hp : s.pool = n :: rest) (c : CtxNum) :
    s.openWith c i n rest =
      ((State.setCtx { s with pool := rest, epochSeq := s.epochSeq + 1#16 } c
        (.active (.opened s.freshIdle) ⟨i, s.epochSeq, [⟨n, 0⟩], 1, false, 0, 0, false⟩)).setSource i
          ⟨some c, false⟩).lowWater (rest.length + 1) := by
  rw [State.openWith, hp, State.bind_of_not_fenced (by exact hf)]; rfl

/-! ### The idle timer -/

theorem State.freshIdle_of_ne_zero (h : s.limits.idlelim ≠ 0) : s.freshIdle = some ⟨s.limits.idlelim, 0⟩ := by
  rw [State.freshIdle, if_neg h]

theorem State.freshIdle_ms :
    s.freshIdle.map (·.ms) = if s.limits.idlelim = 0 then none else some s.limits.idlelim := by
  unfold State.freshIdle; split <;> rfl

section
variable {c : CtxNum} {t : Option Idle} {e : Epoch} (hc : s.ctx c = .active (.opened t) e)
include hc

theorem State.reloadIdle_of_zero (h : s.limits.idlelim = 0) : s.reloadIdle c = s := by
  simp only [State.reloadIdle, hc, if_pos h]

theorem State.reloadIdle_of_ne_zero (h : s.limits.idlelim ≠ 0) :
    s.reloadIdle c = s.setCtx c (.active (.opened (some ⟨s.limits.idlelim, 0⟩)) e) := by
  simp only [State.reloadIdle, hc, if_neg h, State.freshIdle_of_ne_zero h]

end

/-! ### TOUCH -/

theorem exec_touch_of_ne_run (hr : s.inReset = false) (hm : s.mode ≠ .run) (b : Byte) :
    exec (.touch b) s = .next (s.replied [0x82#8]) :=
  congrArg _ (State.runFrame_of_ne hr hm _)

theorem exec_touch_of_bad_context {b : Byte} (hr : s.inReset = false) (hm : s.mode = .run) (hb : 7 < b.toNat) :
    exec (.touch b) s = .next (s.replied [0x81#8]) :=
  congrArg _ ((State.runFrame_of_run hr hm _).trans (by rw [asCtx_none hb]; rfl))

theorem exec_touch_of_context {b : Byte} {c : CtxNum} (hr : s.inReset = false) (hm : s.mode = .run)
    (hb : b.toNat = c.val) :
    exec (.touch b) s =
      .next (if !(s.ctx c).isOpen then s.replied [0x84#8] else (s.reloadIdle c).replied [0x00#8]) :=
  congrArg _ ((State.runFrame_of_run hr hm _).trans (by rw [asCtx_of hb]; rfl))

/-! ### The statements -/

/-- Settles O23: each refusal of R6 by its own case of `openFor`, and the taken OPEN by `openWith_of_not_fenced`, with
`freshIdle` as the timer of the new context. -/
theorem openIsCheckedAndTaken : Obligations.OpenIsCheckedAndTaken := by
  refine ⟨fun s b hr => ⟨fun hm => exec_openEpoch_of_ne_run hr hm b, fun hm hb => exec_openEpoch_of_bad_source hr hm hb,
    fun i hm hi => ?refused⟩, fun s i c n rest hr hm hf hb hc hl hp => ⟨s.freshIdle, State.freshIdle_ms, ?taken⟩⟩
  case refused =>
    rw [exec_openEpoch_of_source hr hm hi]
    refine ⟨fun hf => ?_, fun hf hb => ?_, fun hf hb => ⟨fun hc => ?_, fun hc hp => ?_⟩⟩
    · rw [State.openFor_of_fenced hf]
    · rw [State.openFor_of_bound hf hb]
    · rw [State.openFor_of_no_context hf hb hc]
    · rw [State.openFor_of_no_segment hf hb hc hp]
  case taken =>
    have hi : (BitVec.ofNat 8 i.val).toNat = i.val := by rw [BitVec.toNat_ofNat]; omega
    rw [exec_openEpoch_of_source hr hm hi, State.openFor_taken hf hb hc hl hp, State.openWith_of_not_fenced hf hp]
    rfl

/-- Settles O27: the checks of R14 in their order, then the two cases of IDLELIM. -/
theorem touchReloadsTimer : Obligations.TouchReloadsTimer := by
  refine fun s b hr => ⟨fun hm => exec_touch_of_ne_run hr hm b, fun hm hb => exec_touch_of_bad_context hr hm hb,
    fun c hm hb => ?_⟩
  rw [exec_touch_of_context hr hm hb]
  refine ⟨fun hc => ?notOpen, fun t e hc => ?isOpen⟩
  case notOpen => rw [Context.isOpen_false _ hc]; rfl
  case isOpen =>
    have hopen : (s.ctx c).isOpen = true := by rw [hc]; rfl
    rw [hopen]
    refine ⟨fun h0 => ?_, fun h0 => ⟨⟨s.limits.idlelim, 0⟩, rfl, ?_⟩⟩
    · rw [State.reloadIdle_of_zero hc h0]; rfl
    · rw [State.reloadIdle_of_ne_zero hc h0]; rfl

end Sys2Proof.Machine
end

section
/-! SUPPORT. SET_REGION and GET_REGION (R63), the region of an address (R62), the journal window, and the statement. -/

namespace Sys2Proof.Machine

variable {s : State}

/-! ### A frame that every mode but FROZEN takes -/

theorem State.liveFrame_of_frozen (hr : s.inReset = false) (hm : s.mode = .frozen) (f : State → State) :
    (s.frame fun s => if s.mode = .frozen then s.answer .wrongMode else f s) = s.replied [0x82#8] := by
  rw [State.frame_eq hr, if_pos hm]; rfl

theorem State.liveFrame_of_ne (hr : s.inReset = false) (hm : s.mode ≠ .frozen) (f : State → State) :
    (s.frame fun s => if s.mode = .frozen then s.answer .wrongMode else f s) = f s := by
  rw [State.frame_eq hr, if_neg hm]

/-! ### SET_REGION -/

section
variable {x en mo : Byte} {b l : WideAddr} (hr : s.inReset = false)
include hr

theorem exec_setRegion_of_frozen (hm : s.mode = .frozen) :
    exec (.setRegion x en mo b l) s = .next (s.replied [0x82#8]) :=
  congrArg _ (State.liveFrame_of_frozen hr hm _)

theorem exec_setRegion_of_bad_argument (hm : s.mode ≠ .frozen)
    (h : asSixteen x = none ∨ asRegion en mo b l = none) :
    exec (.setRegion x en mo b l) s = .next (s.replied [0x81#8]) := by
  refine congrArg _ ((State.liveFrame_of_ne hr hm _).trans ?_)
  rcases h with hindex | hentry
  · rw [hindex]; rfl
  · rw [hentry]; cases asSixteen x <;> rfl

variable {i : Fin 16} {r : Region} (hm : s.mode ≠ .frozen) (hi : asSixteen x = some i)
  (he : asRegion en mo b l = some r)
include hm hi he

theorem exec_setRegion_of_busy (hq : s.quiet = false) :
    exec (.setRegion x en mo b l) s = .next (s.replied [0x83#8]) := by
  refine congrArg _ ((State.liveFrame_of_ne hr hm _).trans ?_)
  rw [hi, he, hq]; rfl

theorem exec_setRegion_taken (hq : s.quiet = true) :
    exec (.setRegion x en mo b l) s = .next ({ s with regions := s.regions.set i r }.replied [0x00#8]) := by
  refine congrArg _ ((State.liveFrame_of_ne hr hm _).trans ?_)
  rw [hi, he, hq]; rfl

end

/-! ### GET_REGION -/

section
variable {x : Byte} (hr : s.inReset = false)
include hr

theorem exec_getRegion_of_bad_index (hx : 15 < x.toNat) :
    exec (.getRegion x) s = .next (s.replied [0x81#8]) :=
  congrArg _ ((State.frame_eq hr _).trans (by rw [asSixteen_none x hx]; rfl))

theorem exec_getRegion_of_index (hx : x.toNat < 16) :
    exec (.getRegion x) s = .next (s.replied (0x00#8 :: (s.region ⟨x.toNat, hx⟩).bytes)) :=
  congrArg _ ((State.frame_eq hr _).trans (by rw [asSixteen_of x hx]; rfl))

end

/-! ### The region of an address -/

theorem find?_sixteen (p : Fin 16 → Bool) : sixteen.find? p = Fin.find? p := Fin.find?_eq_find?_finRange.symm

section
variable {a : Addr}

/-- The lowest-numbered entry that covers the address decides (R62). -/
theorem State.regionMode_of_first {i : Fin 16} (hi : (s.region i).covers a = true)
    (hl : ∀ j < i, ¬ (s.region j).covers a = true) : s.regionMode a = (s.region i).mode := by
  have hfind : sixteen.find? (fun j => (s.region j).covers a) = some i := by
    rw [find?_sixteen, Fin.find?_eq_some_iff]
    exact ⟨hi, fun j hj => Bool.eq_false_iff.2 (hl j hj)⟩
  rw [State.regionMode, hfind]

/-- An address that no entry covers has mode PASS (R62). -/
theorem State.regionMode_of_none (h : ∀ i, ¬ (s.region i).covers a = true) : s.regionMode a = .pass := by
  have hfind : sixteen.find? (fun j => (s.region j).covers a) = none := List.find?_eq_none.2 fun i _ => h i
  rw [State.regionMode, hfind]

end

/-! ### The journal window -/

/-- In RUN an access within the journal window is refused before any region is looked up, except a write that enables
no byte (R64, R65). -/
theorem State.classify_of_inWindow {h : Access} (hm : s.mode = .run) (hw : s.inWindow h.addr = true)
    (hb : h.write = false ∨ h.be ≠ 0#4) : s.classify h = .refused .journalWindow := by
  rw [State.classify, hm]
  cases hwrite : h.write with
  | false => exact if_pos hw
  | true =>
    have hbe : h.be ≠ 0#4 := hb.resolve_left (by rw [hwrite]; exact Bool.noConfusion)
    exact (if_neg hbe).trans (if_pos hw)

/-! ### The statement -/

/-- Settles O14: SET_REGION by its checks in their order (`asSixteen`, `asRegion`, `State.quiet`), the region of an
address by the first entry that covers it, and the window by the classification's step before the regions. -/
theorem regionsAreSetReadAndUsed : Obligations.RegionsAreSetReadAndUsed := by
  refine ⟨fun s x en mo b l hr => ⟨fun hm => exec_setRegion_of_frozen hr hm, fun hm => ⟨fun hbad => ?badArgument,
      fun hx hen hmo hbl hl => ?entry⟩, fun hx => exec_getRegion_of_bad_index hr hx,
      fun hx => exec_getRegion_of_index hr hx⟩,
    fun s a => ⟨fun i hen hb hl hlow => ?covered, fun hnone => ?uncovered, fun h ha hm hw hb => ?window⟩⟩
  case badArgument =>
    refine exec_setRegion_of_bad_argument hr hm (hbad.imp (asSixteen_none x) fun hentry => ?_)
    rw [asRegion_iff, if_neg (by omega)]
  case entry =>
    have hi := asSixteen_of x hx
    have he := (asRegion_iff en mo b l).trans (if_pos ⟨hen, hmo, hbl, hl⟩)
    exact ⟨fun hbusy => exec_setRegion_of_busy hr hm hi he (s.quiet_false hbusy),
      fun hfree hq => exec_setRegion_taken hr hm hi he (s.quiet_iff.2 ⟨hfree, hq⟩)⟩
  case covered =>
    exact State.regionMode_of_first ((Region.covers_iff _ a).2 ⟨hen, hb, hl⟩)
      fun j hj hc => hlow j hj ((Region.covers_iff _ a).1 hc)
  case uncovered => exact State.regionMode_of_none fun i hc => hnone i ((Region.covers_iff _ a).1 hc)
  case window => exact State.classify_of_inWindow hm (ha ▸ hw) hb

end Sys2Proof.Machine
end

section
/-! SUPPORT. ABORT (R100) and DISCARD (R108): the checks that every command on a context in RUN begins with, what a rollback request of an OPEN context does (R16, R17), and the two statements. -/

namespace Sys2Proof.Machine

variable {s : State}

/-! ### A frame that names a context and asks for RUN -/

/-- The mode check and the range check that ABORT and DISCARD begin with, then `f` for the named context. -/
def State.contextFrame (s : State) (b : Byte) (f : State → CtxNum → State) : State :=
  s.frame fun s =>
    if s.mode ≠ .run then s.answer .wrongMode
    else
      match asCtx b with
      | none => s.answer .badArgument
      | some c => f s c

section
variable {b : Byte} (hr : s.inReset = false) (f : State → CtxNum → State)
include hr

theorem State.contextFrame_of_ne_run (hm : s.mode ≠ .run) : s.contextFrame b f = s.replied [0x82#8] :=
  State.runFrame_of_ne hr hm _

theorem State.contextFrame_of_bad_context (hm : s.mode = .run) (hb : 7 < b.toNat) :
    s.contextFrame b f = s.replied [0x81#8] :=
  (State.runFrame_of_run hr hm _).trans (by rw [asCtx_none hb]; rfl)

theorem State.contextFrame_of_context {c : CtxNum} (hm : s.mode = .run) (hb : b.toNat = c.val) :
    s.contextFrame b f = f s c :=
  (State.runFrame_of_run hr hm _).trans (by rw [asCtx_of hb])

end

/-! ### A rollback request of an OPEN context (R16, R17) -/

section
variable {c : CtxNum} {t : Option Idle} {e : Epoch} (hc : s.ctx c = .active (.opened t) e)
include hc

theorem State.takeRollback_of_claims (hn : s.claimsHeld c ≠ 0) (k : Cause) :
    s.takeRollback c k = s.leaveOpen c e (.rollingBack k) := by
  have hempty : s.isEmptyEpoch c = false := (s.isEmptyEpoch_iff c).trans (decide_eq_false hn)
  simp only [State.takeRollback, hc, hempty, Bool.false_eq_true, if_false]

theorem State.takeRollback_of_empty (hn : s.claimsHeld c = 0) (k : Cause) :
    s.takeRollback c k =
      (s.freeEmpty c e).raise .rolledBack (some c) (some e.source) (some k.code) 0#16 none := by
  have hempty : s.isEmptyEpoch c = true := (s.isEmptyEpoch_iff c).trans (decide_eq_true hn)
  simp only [State.takeRollback, hc, hempty, if_true]

theorem State.leaveReport_of_open :
    s.leaveReport c = ⟨some e.source, [], decide (s.claimsHeld c = 0)⟩ := by
  simp only [State.leaveReport, hc, s.isEmptyEpoch_iff c]

theorem State.requestRollback_of_claims (hn : s.claimsHeld c ≠ 0) (k : Cause) :
    s.requestRollback c k = (s.leaveOpen c e (.rollingBack k)).deliver ⟨some e.source, [], false⟩ := by
  rw [State.requestRollback, State.takeRollback_of_claims hc hn, State.leaveReport_of_open hc, decide_eq_false hn]

theorem State.requestRollback_of_empty (hn : s.claimsHeld c = 0) (k : Cause) :
    s.requestRollback c k =
      ((s.freeEmpty c e).raise .rolledBack (some c) (some e.source) (some k.code) 0#16 none).deliver
        ⟨some e.source, [], true⟩ := by
  rw [State.requestRollback, State.takeRollback_of_empty hc hn, State.leaveReport_of_open hc, decide_eq_true hn]

end

/-! ### ABORT -/

/-- What ABORT does once the mode and the context number are in order: the rest of R100. -/
def State.abortFor (s : State) (c : CtxNum) : State :=
  if !(s.ctx c).isOpen then s.answer .wrongState
  else ((s.requestRollback c .abortCmd).answer .accepted).arbitrate

theorem exec_abort (s : State) (b : Byte) : exec (.abort b) s = .next (s.contextFrame b State.abortFor) := rfl

theorem State.abortFor_of_not_open {c : CtxNum} (hc : ∀ t e, s.ctx c ≠ .active (.opened t) e) :
    s.abortFor c = s.replied [0x84#8] := by
  rw [State.abortFor, Context.isOpen_false _ hc]; rfl

theorem State.abortFor_of_open {c : CtxNum} {t : Option Idle} {e : Epoch} (hc : s.ctx c = .active (.opened t) e) :
    s.abortFor c = ((s.requestRollback c .abortCmd).replied [0x01#8]).arbitrate := by
  rw [State.abortFor, hc]; rfl

/-! ### DISCARD -/

/-- What DISCARD does once the mode and the context number are in order: the rest of R108. -/
def State.discardFor (s : State) (c : CtxNum) : State :=
  match s.ctx c with
  | .active (.faulted _ _) e => (((s.setCtx c (.active .discarding e)).enqueue c none).answer .accepted).arbitrate
  | _ => s.answer .wrongState

theorem exec_discard (s : State) (b : Byte) : exec (.discard b) s = .next (s.contextFrame b State.discardFor) := rfl

theorem State.discardFor_of_not_faulted {c : CtxNum} (hc : ∀ k f e, s.ctx c ≠ .active (.faulted k f) e) :
    s.discardFor c = s.replied [0x84#8] := by
  unfold State.discardFor
  split
  · next k f e hfaulted => exact absurd hfaulted (hc k f e)
  · rfl

theorem State.discardFor_of_faulted {c : CtxNum} {k : Cause} {f : FaultInfo} {e : Epoch}
    (hc : s.ctx c = .active (.faulted k f) e) :
    s.discardFor c =
      (((s.setCtx c (.active .discarding e)).enqueue c none).replied [0x01#8]).arbitrate := by
  rw [State.discardFor, hc]; rfl

/-! ### The statements -/

/-- Settles O25: the checks of `contextFrame` and `abortFor` in their order, then the two cases of the rollback request
(R17); no hypothesis on the guards is used. -/
theorem abortIsCheckedAndTaken : Obligations.AbortIsCheckedAndTaken := by
  intro s b hr
  rw [exec_abort]
  refine ⟨fun hm => ?wrongMode, fun hm hb => ?badContext, fun c hm hb => ?context⟩
  case wrongMode => rw [State.contextFrame_of_ne_run hr _ hm]
  case badContext => rw [State.contextFrame_of_bad_context hr _ hm hb]
  case context =>
    rw [State.contextFrame_of_context hr _ hm hb]
    refine ⟨fun hc => ?notOpen, fun t e hc => ⟨fun hn => ?claims, fun hn => ?empty⟩⟩
    case notOpen => rw [State.abortFor_of_not_open hc]
    case claims => rw [State.abortFor_of_open hc, State.requestRollback_of_claims hc hn]; rfl
    case empty => rw [State.abortFor_of_open hc, State.requestRollback_of_empty hc hn]; rfl

/-- Settles O29: the checks of `contextFrame` and `discardFor` in their order, then the effect on a FAULTED context. -/
theorem discardIsTaken : Obligations.DiscardIsTaken := by
  intro s b hr
  rw [exec_discard]
  refine ⟨fun hm => ?wrongMode, fun hm hb => ?badContext, fun c hm hb => ?context⟩
  case wrongMode => rw [State.contextFrame_of_ne_run hr _ hm]
  case badContext => rw [State.contextFrame_of_bad_context hr _ hm hb]
  case context =>
    rw [State.contextFrame_of_context hr _ hm hb]
    refine ⟨fun hc => ?notFaulted, fun k f e hc => ?faulted⟩
    case notFaulted => rw [State.discardFor_of_not_faulted hc]
    case faulted => rw [State.discardFor_of_faulted hc]; rfl

end Sys2Proof.Machine
end

section
/-! SUPPORT. SET_GUARD (R116) and GET_GUARD (R117): the arming read that SET_GUARD overtakes (R118), what each command answers per case, and the two statements. -/

namespace Sys2Proof.Machine

variable {s : State}

/-! ### The arming read that SET_GUARD overtakes (R118) -/

theorem State.dropArming_of_no_read (s : State) {i : Fin 8}
    (h : ∀ y, s.grant = some y → ∀ w, y.task ≠ .armingRead i w) : s.dropArming i = s := by
  suffices hgrant : (s.dropArming i).grant = s.grant from congrArg (fun g => { s with grant := g }) hgrant
  refine Option.map_congr (fun y hy => ?_) |>.trans Option.map_id'
  split
  · next j w htask =>
    have hj : j ≠ i := fun hj => h y hy w (hj ▸ htask)
    exact if_neg hj
  · rfl

theorem State.dropArming_of_read (s : State) {i : Fin 8} {y : Grant} {w : Bool} (hy : s.grant = some y)
    (htask : y.task = .armingRead i w) :
    s.dropArming i = { s with grant := some { y with task := .armingRead i false } } := by
  simp only [State.dropArming, hy, Option.map_some, htask, if_pos]

/-! ### SET_GUARD -/

section
variable {x en : Byte} {a : WideAddr} {v m : Word} {tr ac bo : Byte} (hr : s.inReset = false)
include hr

theorem exec_setGuard_of_frozen (hm : s.mode = .frozen) :
    exec (.setGuard x en a v m tr ac bo) s = .next (s.replied [0x82#8]) :=
  congrArg _ (State.liveFrame_of_frozen hr hm _)

theorem exec_setGuard_of_bad_argument (hm : s.mode ≠ .frozen)
    (h : asEight x = none ∨ asGuard en a v m tr ac bo = none) :
    exec (.setGuard x en a v m tr ac bo) s = .next (s.replied [0x81#8]) := by
  refine congrArg _ ((State.liveFrame_of_ne hr hm _).trans ?_)
  rcases h with hindex | hentry
  · rw [hindex]; rfl
  · rw [hentry]; cases asEight x <;> rfl

variable {i : Fin 8} {g : Guard} (hm : s.mode ≠ .frozen) (hi : asEight x = some i)
  (hg : asGuard en a v m tr ac bo = some g)
include hm hi hg

theorem exec_setGuard_of_inWindow (hw : (g.enable && s.inWindow g.addr) = true) :
    exec (.setGuard x en a v m tr ac bo) s = .next (s.replied [0x81#8]) := by
  refine congrArg _ ((State.liveFrame_of_ne hr hm _).trans ?_)
  simp only [hi, hg, hw]; rfl

theorem exec_setGuard_taken (hw : (g.enable && s.inWindow g.addr) = false) :
    exec (.setGuard x en a v m tr ac bo) s =
      .next ((((s.setGuard i g).dropArming i).replied [0x00#8]).arbitrate) := by
  refine congrArg _ ((State.liveFrame_of_ne hr hm _).trans ?_)
  simp only [hi, hg, hw]; rfl

end

/-! ### GET_GUARD -/

section
variable {b : Byte} (hr : s.inReset = false)
include hr

theorem exec_getGuard_of_bad_index (hb : 7 < b.toNat) : exec (.getGuard b) s = .next (s.replied [0x81#8]) :=
  congrArg _ ((State.frame_eq hr _).trans (by rw [asEight_none hb]; rfl))

theorem exec_getGuard_of_index {i : Fin 8} (hb : b.toNat = i.val) :
    exec (.getGuard b) s = .next (s.replied (0x00#8 :: (s.guard i).bytes)) :=
  congrArg _ ((State.frame_eq hr _).trans (by rw [asEight_of hb]; rfl))

end

/-! ### The statements -/

/-- Settles O31: the checks in their order (`asEight`, `asGuard_iff`, the journal window of an enabled entry), and of
the grant in progress only what `dropArming` does to an arming read of this entry. -/
theorem guardsAreSet : Obligations.GuardsAreSet := by
  refine fun s x en a v m tr ac bo hr => ⟨fun hm => exec_setGuard_of_frozen hr hm, fun hm => ⟨fun hbad => ?badArgument,
    fun i hx hen ha htr hac hbo => ?entry⟩⟩
  case badArgument =>
    refine exec_setGuard_of_bad_argument hr hm (hbad.imp asEight_none fun hentry => ?_)
    rw [asGuard_iff, if_neg (by omega)]
  case entry =>
    intro g
    have hi : asEight x = some i := asEight_of hx
    have hg : asGuard en a v m tr ac bo = some g := (asGuard_iff ..).trans (if_pos ⟨hen, ha, htr, hac, hbo⟩)
    have henable : g.enable = true ↔ en.toNat = 1 := beq_iff_eq
    refine ⟨fun hone hin => ?inWindow, fun hout => ?taken⟩
    case inWindow =>
      exact exec_setGuard_of_inWindow hr hm hi hg (by rw [henable.2 hone, hin]; rfl)
    case taken =>
      have hw : (g.enable && s.inWindow g.addr) = false :=
        Bool.and_eq_false_imp.2 fun he => hout (henable.1 he)
      rw [exec_setGuard_taken hr hm hi hg hw]
      refine ⟨fun hnone => ?noRead, fun y w hy htask => ?read⟩
      case noRead => rw [State.dropArming_of_no_read (s.setGuard i g) hnone]
      case read => rw [State.dropArming_of_read (s.setGuard i g) hy htask]

/-- Settles O32: the frame has no mode check, and the entry's bytes are `Guard.bytes`, read off by the bound: a context
or ANY. -/
theorem guardsAreRead : Obligations.GuardsAreRead := by
  refine fun s b hr => ⟨fun hb => exec_getGuard_of_bad_index hr hb, fun i hb => ?_⟩
  rw [exec_getGuard_of_index hr hb, Guard.bytes]
  dsimp only
  cases (s.guard i).bound with
  | none => rfl
  | some c => rfl

end Sys2Proof.Machine
end

section
/-! SUPPORT. FROZEN at the management port (R142): the frames that a mode check refuses, the frames that read and do not depend on the mode, and the statement. -/

namespace Sys2Proof.Machine

variable {s : State}

/-! ### A frame that a mode check refuses -/

/-- The mode check of any command, whichever modes it asks for: `runFrame_of_ne` and `liveFrame_of_frozen` are two of
its forms. -/
theorem State.checkedFrame_of_refused {p : State → Prop} [DecidablePred p] (hr : s.inReset = false) (hp : p s)
    (f : State → State) : (s.frame fun s => if p s then s.answer .wrongMode else f s) = s.replied [0x82#8] := by
  rw [State.frame_eq hr, if_pos hp]; rfl

/-- FROZEN is none of the modes that a command other than the reading ones takes (R142): by its mode check, each asks
for GATED, for RUN, for any mode without work, or for any mode but FROZEN. -/
theorem exec_of_refused_in_frozen {c : Instr} (hr : s.inReset = false) (hm : s.mode = .frozen)
    (hframe : c.isFrame = true) (hans : c.isAnsweredInFrozen = false) : exec c s = .next (s.replied [0x82#8]) := by
  have hgated : s.mode ≠ .gated := by rw [hm]; nofun
  have hrun : s.mode ≠ .run := by rw [hm]; nofun
  cases c
  case setGeometry | format | recover => exact congrArg _ (State.checkedFrame_of_refused hr hgated _)
  case gate | openEpoch | commit | abort | touch | retry | discard => exact congrArg _ (State.runFrame_of_ne hr hrun _)
  case setLimits => exact congrArg _ (State.checkedFrame_of_refused hr (.inl hm) _)
  case setRegion | setGuard | setAccounting | clearCounters | unfence | setEventMask | setStatSelect =>
    exact congrArg _ (State.liveFrame_of_frozen hr hm _)
  case getId | getStatus | popEvent | ackLost | repeatResponse | getLimits | getRegion | getGuard | getContext
      | getCounters | badOpcode | shortFrame => exact nomatch hans
  all_goals exact nomatch hframe

/-! ### A frame that does not depend on the mode -/

/-- The same state in another mode. -/
def State.inMode (s : State) (m : Mode) : State := { s with mode := m }

variable {m : Mode}

theorem State.frame_inMode {f : State → State} (hf : f (s.inMode m) = (f s).inMode m) :
    (s.inMode m).frame f = (s.frame f).inMode m := by
  cases h : s.inReset with
  | true => rw [State.frame_reset h, State.frame_reset (s := s.inMode m) h]
  | false => rw [State.frame_eq h, State.frame_eq (s := s.inMode m) h, hf]

/-- What POP_EVENT does to a queue with the records `l` (R163). -/
def State.popFrom (s : State) (l : List Event) : State :=
  match l with
  | [] => s.answer .empty
  | e :: rest => State.respond { s with events := rest } .ok e.bytes

theorem exec_popEvent (s : State) : exec .popEvent s = .next (s.frame fun s => s.popFrom s.events) := rfl

theorem State.popFrom_inMode (l : List Event) : (s.inMode m).popFrom l = (s.popFrom l).inMode m := by
  cases l <;> rfl

/-- Of the reading commands GET_STATUS alone shows the mode (R160): every other one does the same in any mode. -/
theorem exec_inMode_of_answered {c : Instr} {t : State} (hans : c.isAnsweredInFrozen = true) (hne : c ≠ .getStatus)
    (h : exec c s = .next t) : exec c (s.inMode m) = .next (t.inMode m) := by
  cases c
  case getStatus => exact absurd rfl hne
  case getId | ackLost | repeatResponse | getLimits | badOpcode | shortFrame =>
    cases h
    exact congrArg _ (State.frame_inMode rfl)
  case popEvent =>
    cases (exec_popEvent s).symm.trans h
    exact congrArg _ (State.frame_inMode (State.popFrom_inMode s.events))
  case getRegion | getGuard | getContext | getCounters =>
    cases h
    refine congrArg _ (State.frame_inMode ?_)
    split <;> rfl
  all_goals exact nomatch hans

/-! ### GET_STATUS -/

theorem exec_getStatus (hr : s.inReset = false) : exec .getStatus s = .next (s.replied (0x00#8 :: s.statusBytes)) :=
  congrArg _ (State.frame_eq hr _)

/-- The mode is the first status byte and no other (R160). -/
theorem State.statusBytes_inMode : (s.inMode m).statusBytes = m.code :: s.statusBytes.tail := rfl

/-! ### The statement -/

/-- Settles O53: the mode checks refuse what is no reading command; a reading command does not depend on the mode, but
for the first status byte of GET_STATUS. -/
theorem frozenAnswersReadsAlone : Obligations.FrozenAnswersReadsAlone := by
  refine fun s c hr hm hframe => ⟨fun hans => exec_of_refused_in_frozen hr hm hframe hans, fun hans m t h => ?_⟩
  by_cases hc : c = .getStatus
  case neg => exact ⟨t.inMode m, exec_inMode_of_answered hans hc h, rfl, rfl, rfl, fun _ => ⟨rfl, rfl⟩⟩
  case pos =>
    subst hc
    cases (exec_getStatus hr).symm.trans h
    have hlength : (s.inMode m).statusBytes.length = s.statusBytes.length := by
      rw [State.statusBytes_inMode]; rfl
    exact ⟨_, exec_getStatus (s := s.inMode m) hr, rfl, rfl, congrArg Nat.succ hlength, absurd rfl⟩

end Sys2Proof.Machine
end

section
/-! SUPPORT. The STAT lines (R165): the condition that each selection names, SET_STAT_SELECT by its checks, what GATE, PFAIL# and a reset leave of the selections, and the statement. -/

namespace Sys2Proof.Machine

variable {s : State}

/-! ### The conditions -/

theorem State.statCondition_run_iff : s.statCondition 0 = true ↔ s.mode = .run := beq_iff_eq

theorem State.statCondition_inUse_iff : s.statCondition 1 = true ↔ ∃ c, s.ctx c ≠ .free := by
  have hfree (c : CtxNum) : (!(s.ctx c).isFree) = true ↔ s.ctx c ≠ .free := by
    rw [Bool.not_eq_true', Bool.eq_false_iff, Ne, Context.isFree_iff]
  exact List.any_eq_true.trans
    ⟨fun ⟨c, _, hc⟩ => ⟨c, (hfree c).1 hc⟩, fun ⟨c, hc⟩ => ⟨c, eight_mem c, (hfree c).2 hc⟩⟩

theorem State.statCondition_lowPool_iff : s.statCondition 2 = true ↔ s.pool.length < s.limits.lowwater :=
  decide_eq_true_iff

theorem State.statCondition_fenced_iff : s.statCondition 3 = true ↔ ∃ i, (s.source i).fenced = true :=
  List.any_eq_true.trans ⟨fun ⟨i, _, hi⟩ => ⟨i, hi⟩, fun ⟨i, hi⟩ => ⟨i, four_mem i, hi⟩⟩

theorem State.statCondition_events_iff : s.statCondition 4 = true ↔ s.events ≠ [] :=
  show (!s.events.isEmpty) = true ↔ _ by rw [Bool.not_eq_true', List.isEmpty_eq_false_iff]

theorem State.statCondition_queue_iff : s.statCondition 5 = true ↔ s.queue ≠ [] :=
  show (!s.queue.isEmpty) = true ↔ _ by rw [Bool.not_eq_true', List.isEmpty_eq_false_iff]

theorem State.statCondition_frozen_iff : s.statCondition 6 = true ↔ s.mode = .frozen := beq_iff_eq

/-- No free count is below a LOWWATER of 0 (R42, R165). -/
theorem State.statCondition_lowPool_of_zero (h : s.limits.lowwater = 0) : s.statCondition 2 = false := by
  rw [Bool.eq_false_iff, Ne, State.statCondition_lowPool_iff, h]
  exact Nat.not_lt_zero _

/-! ### SET_STAT_SELECT -/

section
variable {a b : Byte} (hr : s.inReset = false)
include hr

theorem exec_setStatSelect_of_frozen (hm : s.mode = .frozen) :
    exec (.setStatSelect a b) s = .next (s.replied [0x82#8]) :=
  congrArg _ (State.liveFrame_of_frozen hr hm _)

theorem exec_setStatSelect_of_bad_argument (hm : s.mode ≠ .frozen) (h : 7 < a.toNat ∨ 7 < b.toNat) :
    exec (.setStatSelect a b) s = .next (s.replied [0x81#8]) := by
  refine congrArg _ ((State.liveFrame_of_ne hr hm _).trans ?_)
  rcases h with ha | hb
  · rw [asEight_none ha]; rfl
  · rw [asEight_none hb]; cases asEight a <;> rfl

theorem exec_setStatSelect_taken {i j : Fin 8} (hm : s.mode ≠ .frozen) (ha : a.toNat = i.val) (hb : b.toNat = j.val) :
    exec (.setStatSelect a b) s = .next ({ s with stat0 := i, stat1 := j }.replied [0x00#8]) := by
  refine congrArg _ ((State.liveFrame_of_ne hr hm _).trans ?_)
  rw [asEight_of ha, asEight_of hb]; rfl

end

/-! ### What keeps the selections -/

/-- GATE changes the mode and the response, if anything (R154). -/
theorem exec_gate_cases {t : State} (h : exec .gate s = .next t) :
    t = s ∨ ∃ m r, t = (s.inMode m).replied r := by
  cases h
  cases hr : s.inReset with
  | true => exact .inl (State.frame_reset hr _)
  | false =>
    rw [State.frame_eq hr]
    refine .inr ?_
    split
    · exact ⟨s.mode, [0x82#8], rfl⟩
    · split
      · exact ⟨.gated, [0x00#8], rfl⟩
      · exact ⟨s.mode, [0x83#8], rfl⟩

/-- Of the fixed part PFAIL# changes its level and, outside a reset, the mode (R141). -/
theorem exec_pfailAsserted_fixed {t : State} (h : exec .pfailAsserted s = .next t) :
    t.fixed = { s.fixed with pfail := true, mode := if s.inReset then s.mode else .frozen } := by
  have hstart : (State.startGiven { s with pfail := true }).fixed = { s.fixed with pfail := true } :=
    State.startGiven_fixed _
  cases h
  split
  · next hkept =>
    have hmode : (if s.inReset then s.mode else .frozen) = s.mode := by
      rcases Bool.or_eq_true_iff.1 hkept with hr | hm
      · rw [if_pos hr]
      · rw [beq_iff_eq.1 hm, ite_self]
    rw [hmode]; rfl
  · next hfalls =>
    have hr : ¬ s.inReset = true := fun hr => hfalls (Bool.or_eq_true_iff.2 (.inl hr))
    rw [State.freezeAccess_fixed, if_neg hr]
    exact congrArg (fun u : State => { u with mode := .frozen }) hstart

section
variable {t : State} (h : exec .pfailAsserted s = .next t)
include h

theorem exec_pfailAsserted_stat0 : t.stat0 = s.stat0 :=
  show t.fixed.stat0 = _ by rw [exec_pfailAsserted_fixed h]; rfl

theorem exec_pfailAsserted_stat1 : t.stat1 = s.stat1 :=
  show t.fixed.stat1 = _ by rw [exec_pfailAsserted_fixed h]; rfl

theorem exec_pfailAsserted_mode (hr : s.inReset = false) : t.mode = .frozen :=
  show t.fixed.mode = _ by rw [exec_pfailAsserted_fixed h, hr]; rfl

end

/-! ### The statement -/

/-- Settles O10: SET_STAT_SELECT by its checks in their order, each condition by its own `↔`, and the selections kept
because GATE and PFAIL# reach nothing of the settings but the mode. -/
theorem statLinesFollowSelections : Obligations.StatLinesFollowSelections := by
  refine ⟨fun s a b hr => ⟨exec_setStatSelect_of_frozen hr, exec_setStatSelect_of_bad_argument hr,
      fun hm ha hb => exec_setStatSelect_taken hr hm rfl rfl⟩,
    fun s => ⟨rfl, rfl, State.statCondition_run_iff, State.statCondition_inUse_iff, State.statCondition_lowPool_iff,
      State.statCondition_fenced_iff, State.statCondition_events_iff, State.statCondition_queue_iff,
      State.statCondition_frozen_iff, rfl, State.statCondition_lowPool_of_zero⟩,
    fun s t h => ?reset, fun s t h => ?kept, fun s t hr h => ?rises⟩
  case reset => cases h; exact ⟨rfl, rfl, rfl, rfl⟩
  case kept =>
    rcases h with hgate | hpfail
    · rcases exec_gate_cases hgate with rfl | ⟨m, r, rfl⟩ <;> exact ⟨rfl, rfl⟩
    · exact ⟨exec_pfailAsserted_stat0 hpfail, exec_pfailAsserted_stat1 hpfail⟩
  case rises =>
    have hfrozen : t.statCondition 6 = true := State.statCondition_frozen_iff.2 (exec_pfailAsserted_mode h hr)
    refine ⟨fun h0 => ?_, fun h1 => ?_⟩
    · rwa [State.stat0Level, exec_pfailAsserted_stat0 h, h0]
    · rwa [State.stat1Level, exec_pfailAsserted_stat1 h, h1]

end Sys2Proof.Machine
end

section
/-! SUPPORT. GET_ID and GET_STATUS (R160) with the two bit masks of the status bytes, REPEAT_RESPONSE (R158), and the two statements. -/

namespace Sys2Proof.Machine

variable {s : State}

/-! ### Bytes with one bit per index -/

theorem getLsbD_or_bit {b : Byte} {i : Nat} (hi : i < 8) (k : Nat) :
    (b ||| 1#8 <<< i).getLsbD k = true ↔ b.getLsbD k = true ∨ i = k := by
  have hbit : (1#8 <<< i).getLsbD k = true ↔ i = k := by
    simp only [BitVec.getLsbD_shiftLeft, BitVec.getLsbD_one, Bool.and_eq_true, Bool.not_eq_true', decide_eq_true_eq,
      decide_eq_false_iff_not]
    omega
  rw [BitVec.getLsbD_or, Bool.or_eq_true, hbit]

/-- Setting the bit of each listed index that meets `p` sets those bits and keeps the others. -/
theorem getLsbD_foldl_bits {n : Nat} (hn : n ≤ 8) (p : Fin n → Bool) (l : List (Fin n)) (b : Byte) (k : Nat) :
    (l.foldl (fun b i => if p i then b ||| 1#8 <<< i.val else b) b).getLsbD k = true ↔
      b.getLsbD k = true ∨ ∃ i ∈ l, p i = true ∧ i.val = k := by
  induction l generalizing b with
  | nil => simp
  | cons i l ih =>
    rw [List.foldl_cons, ih, List.exists_mem_cons_iff]
    cases hp : p i with
    | true => rw [if_pos rfl, getLsbD_or_bit (by omega), or_assoc]; simp
    | false => simp

theorem State.notFreeBits_getLsbD (c : CtxNum) : s.notFreeBits.getLsbD c.val = !(s.ctx c).isFree := by
  have hbits : s.notFreeBits =
      eight.foldl (fun b c => if !(s.ctx c).isFree then b ||| 1#8 <<< c.val else b) 0#8 := by
    refine congrArg (fun f => eight.foldl f 0#8) (funext₂ fun b c => ?_)
    cases (s.ctx c).isFree <;> rfl
  rw [Bool.eq_iff_iff, hbits, getLsbD_foldl_bits (le_refl 8) fun c => !(s.ctx c).isFree]
  simp [Fin.val_inj, eight_mem]

/-- Bit `k` of the fence byte is set for a fenced source with number `k`, and for no other `k`. -/
theorem State.fencedBits_getLsbD_iff (k : Nat) :
    s.fencedBits.getLsbD k = true ↔ ∃ i, (s.source i).fenced = true ∧ i.val = k := by
  rw [State.fencedBits, getLsbD_foldl_bits (by decide) fun i => (s.source i).fenced]
  simp [four_mem]

theorem State.fencedBits_getLsbD (i : SrcNum) : s.fencedBits.getLsbD i.val = (s.source i).fenced := by
  rw [Bool.eq_iff_iff, State.fencedBits_getLsbD_iff]
  simp [Fin.val_inj]

theorem State.fencedBits_lt : s.fencedBits.toNat < 16 := by
  refine Nat.lt_pow_two_of_testBit (n := 4) _ fun k hk => ?_
  rw [BitVec.testBit_toNat, Bool.eq_false_iff, Ne, State.fencedBits_getLsbD_iff]
  rintro ⟨i, -, hi⟩
  omega

/-! ### GET_ID -/

theorem exec_getId (hr : s.inReset = false) :
    exec .getId s = .next (s.replied [0x00#8, 0x3C#8, 0x51#8, 0x07#8, 0x08#8, 0x02#8]) :=
  congrArg _ (State.frame_eq hr _)

/-! ### POP_EVENT and REPEAT_RESPONSE -/

theorem exec_repeatResponse (hr : s.inReset = false) :
    exec .repeatResponse s = .next { s with sdo := s.lastResponse } :=
  congrArg _ (State.frame_eq hr _)

theorem exec_popEvent_of_cons {e : Event} {rest : List Event} (hr : s.inReset = false) (he : s.events = e :: rest) :
    exec .popEvent s = .next (State.replied { s with events := rest } (0x00#8 :: e.bytes)) := by
  rw [exec_popEvent, State.frame_eq hr, he]; rfl

/-- SDO sends the response and then 0x00 (R156). -/
theorem State.outByte_eq (k : Nat) : s.outByte k = if h : k < s.sdo.length then s.sdo[k] else 0x00#8 := by
  split
  · next h => exact List.getD_eq_getElem _ _ h
  · next h => exact List.getD_eq_default _ _ (Nat.le_of_not_lt h)

/-! ### The statements -/

/-- Settles O5: the masks are the model's own two, read bit by bit; the other status bytes are listed in R160's order,
and the mode's code is read off mode by mode. -/
theorem identityAndStatusAreRead : Obligations.IdentityAndStatusAreRead := by
  refine fun s hr => ⟨exec_getId hr, s.notFreeBits, s.fencedBits, State.notFreeBits_getLsbD, State.fencedBits_getLsbD,
    State.fencedBits_lt, ?_⟩
  rw [exec_getStatus hr, State.statusBytes]
  cases s.mode <;> rfl

/-- Settles O7: the last response goes to SDO as it stands, and after a POP_EVENT it holds the bytes of the record that
has left the queue. -/
theorem lastResponseIsRepeated : Obligations.LastResponseIsRepeated := by
  refine fun s hr => ⟨exec_repeatResponse hr, State.outByte_eq, fun e rest he => ?_⟩
  exact ⟨_, _, exec_popEvent_of_cons hr he, rfl, exec_repeatResponse hr, rfl, rfl⟩

end Sys2Proof.Machine
end

section
/-! SUPPORT. COMMIT (R96), RETRY (R107) and the rollback requests of every cause (R13, R16, R17): what each does per case, and the three statements. -/

namespace Sys2Proof.Machine

variable {s : State}

/-! ### COMMIT -/

/-- What COMMIT does once the mode and the context number are in order: the rest of R96. -/
def State.commitFor (s : State) (c : CtxNum) : State :=
  if !(s.ctx c).isOpen then s.answer .wrongState
  else if s.guardHeld c then s.answer .guardHeld
  else ((s.requestCommit c).answer .accepted).arbitrate

theorem exec_commit (s : State) (b : Byte) : exec (.commit b) s = .next (s.contextFrame b State.commitFor) := rfl

theorem State.commitFor_of_not_open {c : CtxNum} (hc : ∀ t e, s.ctx c ≠ .active (.opened t) e) :
    s.commitFor c = s.replied [0x84#8] := by
  rw [State.commitFor, Context.isOpen_false _ hc]; rfl

section
variable {c : CtxNum} {t : Option Idle} {e : Epoch} (hc : s.ctx c = .active (.opened t) e)
include hc

theorem State.commitFor_of_held (hg : s.HoldsBack c) : s.commitFor c = s.replied [0x88#8] := by
  rw [State.commitFor, hc, (s.guardHeld_iff c).2 hg]; rfl

theorem State.commitFor_of_open (hg : ¬ s.HoldsBack c) :
    s.commitFor c = ((s.requestCommit c).replied [0x01#8]).arbitrate := by
  rw [State.commitFor, hc, Bool.eq_false_iff.2 (mt (s.guardHeld_iff c).1 hg)]; rfl

theorem State.requestCommit_of_claims (hn : s.claimsHeld c ≠ 0) :
    s.requestCommit c = (s.leaveOpen c e .committing).deliver ⟨some e.source, [], false⟩ := by
  have hempty : s.isEmptyEpoch c = false := (s.isEmptyEpoch_iff c).trans (decide_eq_false hn)
  have htake : s.takeCommit c = s.leaveOpen c e .committing := by
    simp only [State.takeCommit, hc, hempty, Bool.false_eq_true, if_false]
  rw [State.requestCommit, htake, State.leaveReport_of_open hc, decide_eq_false hn]

theorem State.requestCommit_of_empty (hn : s.claimsHeld c = 0) :
    s.requestCommit c =
      ((s.freeEmpty c e).raise .committed (some c) (some e.source) none 0#16 none).deliver
        ⟨some e.source, [], true⟩ := by
  have hempty : s.isEmptyEpoch c = true := (s.isEmptyEpoch_iff c).trans (decide_eq_true hn)
  have htake : s.takeCommit c = (s.freeEmpty c e).raise .committed (some c) (some e.source) none 0#16 none := by
    simp only [State.takeCommit, hc, hempty, if_true]
  rw [State.requestCommit, htake, State.leaveReport_of_open hc, decide_eq_true hn]

end

/-! ### RETRY -/

/-- What RETRY does once the mode and the context number are in order: the rest of R107. -/
def State.retryFor (s : State) (c : CtxNum) : State :=
  match s.ctx c with
  | .active (.faulted k f) e =>
    if f.kind = .chain then s.answer .wrongState
    else (((s.setCtx c (.active (.rollingBack k) e)).enqueue c f.pos).answer .accepted).arbitrate
  | _ => s.answer .wrongState

theorem exec_retry (s : State) (b : Byte) : exec (.retry b) s = .next (s.contextFrame b State.retryFor) := rfl

theorem State.retryFor_of_not_faulted {c : CtxNum} (hc : ∀ k f e, s.ctx c ≠ .active (.faulted k f) e) :
    s.retryFor c = s.replied [0x84#8] := by
  unfold State.retryFor
  split
  · next k f e hfaulted => exact absurd hfaulted (hc k f e)
  · rfl

section
variable {c : CtxNum} {k : Cause} {f : FaultInfo} {e : Epoch} (hc : s.ctx c = .active (.faulted k f) e)
include hc

theorem State.retryFor_of_chain (hf : f.kind = .chain) : s.retryFor c = s.replied [0x84#8] := by
  simp only [State.retryFor, hc, if_pos hf]; rfl

theorem State.retryFor_of_faulted (hf : f.kind ≠ .chain) :
    s.retryFor c =
      (((s.setCtx c (.active (.rollingBack k) e)).enqueue c f.pos).replied [0x01#8]).arbitrate := by
  simp only [State.retryFor, hc, if_neg hf]; rfl

end

/-- The first phase of a rollback that resumes at a record is that record (R95, R101). -/
theorem State.headJob_of_resume {c : CtxNum} {k : Cause} {e : Epoch} {p : SlotPos} {rest : List QueueEntry}
    (hj : s.job = none) (hq : s.queue = ⟨c, some p⟩ :: rest) (hc : s.ctx c = .active (.rollingBack k) e)
    (hm : e.markerWritten = false) (hp : 1 ≤ p.slot) : s.headJob = some ⟨c, .restore p⟩ := by
  have hstart : startPhase e (some p) = .restore p := if_neg (Nat.ne_of_gt hp)
  have hfirst : firstPhase (.rollingBack k) e (some p) = .restore p := by
    rw [firstPhase, hm]; exact hstart
  simp only [State.headJob, hj, hq, hc, hfirst]

/-! ### Rollback requests -/

theorem State.takeRollback_of_not_open {c : CtxNum} (hc : ∀ t e, s.ctx c ≠ .active (.opened t) e) (k : Cause) :
    s.takeRollback c k = s := by
  unfold State.takeRollback
  split
  · next t e hopen => exact absurd hopen (hc t e)
  · rfl

theorem State.requestRollback_of_open {c : CtxNum} {t : Option Idle} {e : Epoch}
    (hc : s.ctx c = .active (.opened t) e) (k : Cause) :
    s.requestRollback c k =
      (s.takeRollback c k).deliver ⟨some e.source, [], decide (s.claimsHeld c = 0)⟩ := by
  rw [State.requestRollback, State.leaveReport_of_open hc]

/-! ### The statements -/

/-- Settles O24: the checks of `contextFrame` and `commitFor` in their order, then the two cases of the commit (R17). -/
theorem commitIsCheckedAndTaken : Obligations.CommitIsCheckedAndTaken := by
  intro s b hr
  rw [exec_commit]
  refine ⟨fun hm => ?wrongMode, fun hm hb => ?badContext, fun c hm hb => ?context⟩
  case wrongMode => rw [State.contextFrame_of_ne_run hr _ hm]
  case badContext => rw [State.contextFrame_of_bad_context hr _ hm hb]
  case context =>
    rw [State.contextFrame_of_context hr _ hm hb]
    refine ⟨fun hc => ?notOpen, fun t e hc => ⟨fun hg => ?held, fun hg => ⟨fun hn => ?claims, fun hn => ?empty⟩⟩⟩
    case notOpen => rw [State.commitFor_of_not_open hc]
    case held => rw [State.commitFor_of_held hc hg]
    case claims => rw [State.commitFor_of_open hc hg, State.requestCommit_of_claims hc hn]; rfl
    case empty => rw [State.commitFor_of_open hc hg, State.requestCommit_of_empty hc hn]; rfl

/-- Settles O26: a request of a context that is not OPEN does nothing, one of an OPEN context is one of the two cases of
R17; IDLE_EXPIRY is due in RUN with a running timer alone. -/
theorem rollbackRequestsAreTaken : Obligations.RollbackRequestsAreTaken := by
  refine ⟨fun s c k => ⟨fun hc => State.takeRollback_of_not_open hc k, fun t e hc => ⟨fun hn => ?claims, fun hn => ?empty⟩⟩,
    fun s c => ⟨fun t e hm hc => ?due, fun h => ?notDue⟩⟩
  case claims => rw [State.takeRollback_of_claims hc hn]; rfl
  case empty => rw [State.takeRollback_of_empty hc hn]; cases k <;> rfl
  case due =>
    have hidle : (s.ctx c).idle = some t := by rw [hc]; rfl
    simp only [exec, execIdleExpiry, hm, hidle, State.requestRollback_of_open hc]
  case notDue =>
    simp only [exec, execIdleExpiry]
    split
    · next t hm hidle =>
      refine absurd h (not_or.2 ⟨not_not.2 hm, fun hnone => ?_⟩)
      unfold Context.idle at hidle
      split at hidle
      · next e hc => exact hnone t e (hidle ▸ hc)
      · exact nomatch hidle
    · rfl

/-- Settles O28: the checks of `contextFrame` and `retryFor` in their order, the effect on a FAULTED context, and the
first phase that the head job then has. -/
theorem retryResumesRollback : Obligations.RetryResumesRollback := by
  intro s b hr
  rw [exec_retry]
  refine ⟨fun hm => ?wrongMode, fun hm hb => ?badContext, fun c hm hb => ?context,
    fun c k e p rest hj hq hc hm hp => State.headJob_of_resume hj hq hc hm hp⟩
  case wrongMode => rw [State.contextFrame_of_ne_run hr _ hm]
  case badContext => rw [State.contextFrame_of_bad_context hr _ hm hb]
  case context =>
    rw [State.contextFrame_of_context hr _ hm hb]
    refine ⟨fun hc => ?notFaulted, fun k f e hc => ⟨fun hf => ?chain, fun hf => ?taken⟩⟩
    case notFaulted => rw [State.retryFor_of_not_faulted hc]
    case chain => rw [State.retryFor_of_chain hc hf]
    case taken => rw [State.retryFor_of_faulted hc hf]; rfl

end Sys2Proof.Machine
end

section
/-! SUPPORT. Relations that every step keeps: a relation between states that holds across the elementary updates holds across what the accounting, the Context Table and the Access Classifier compose of them, across every ordinary command, and across a grant row. -/

namespace Sys2Proof.Machine

/-! ### The elementary updates -/

/-- The part of the state that the laws of every step speak of: memory, mode and work, pool, contexts, bindings, claims,
the engine, the grant in progress, the short frames and the events. -/
def State.tables (s : State) : State :=
  { State.reset with
    mem := s.mem, mode := s.mode, work := s.work, pool := s.pool, contexts := s.contexts,
    sources := s.sources.map fun x => ⟨x.bound, false⟩, claims := s.claims, queue := s.queue, job := s.job,
    grant := s.grant, shortFrames := s.shortFrames, events := s.events }

theorem State.setFence_tables (s : State) (i : SrcNum) (f : Bool) : (s.setFence i f).tables = s.tables := by
  have h : (s.setFence i f).sources.map (fun x => (⟨x.bound, false⟩ : Source)) =
      s.sources.map fun x => ⟨x.bound, false⟩ := by
    rw [State.setFence_sources, Vector.map_set]
    refine Eq.trans ?_ (Vector.set_getElem_self i.isLt)
    rw [Vector.getElem_map]; rfl
  exact congrArg (fun v => { s.tables with sources := v }) h

theorem State.arbitrate_tables (s : State) : s.arbitrate.tables = s.tables := by rw [State.arbitrate_eq]; rfl

/-- A relation that the updates of refusals and of rollback requests keep: what leaves `State.tables` alone, an event,
and a rollback request taken by the Context Table. -/
structure Keeps (R : State → State → Prop) : Prop where
  trans : ∀ {s t u}, R s t → R t u → R s u
  quiet : ∀ {s t}, s.tables = t.tables → R s t
  raise : ∀ (s : State) k c i d n a, R s (s.raise k c i d n a)
  takeRollback : ∀ (s : State) c k, R s (s.takeRollback c k)

namespace Keeps

variable {R : State → State → Prop} (h : Keeps R) (s : State)
include h

theorem refl : R s s := h.quiet rfl

theorem answer (st : Status) : R s (s.answer st) := h.quiet rfl

theorem respond (st : Status) (r : List Byte) : R s (s.respond st r) := h.quiet rfl

theorem setCounter (i : SrcNum) (g : Group) (x : Counter) : R s (s.setCounter i g x) := h.quiet rfl

theorem setGuard (i : Fin 8) (g : Guard) : R s (s.setGuard i g) := h.quiet rfl

theorem endRefused (a : Access) (k : RefusalKind) : R s (s.endRefused a k) := h.quiet rfl

theorem foldl {α : Type} {f : State → α → State} (hf : ∀ t x, R t (f t x)) (l : List α) : R s (l.foldl f s) := by
  induction l generalizing s with
  | nil => exact h.refl s
  | cons x l ih => exact h.trans (hf s x) (ih (f s x))

/-! ### Refusals and their accounting -/

theorem thresholdAbort (b : Option CtxNum) : R s (s.thresholdAbort b) := by
  cases b with
  | none => exact h.refl s
  | some c => exact h.takeRollback s c .threshold

theorem thresholdReached (i : SrcNum) (g : Group) (b : Option CtxNum) : R s (s.thresholdReached i g b) := by
  have fenced : R s (if (s.settings g).fence then s.setFence i true else s) := by
    split
    · exact h.quiet (s.setFence_tables i true).symm
    · exact h.refl s
  have undone := h.trans fenced (h.thresholdAbort _ (if (s.settings g).abort then b else none))
  unfold State.thresholdReached
  dsimp only
  split
  · exact h.trans undone (h.raise ..)
  · exact undone

theorem countBound (i : SrcNum) (g : Group) (b : Option CtxNum) : R s (s.countBound i g b) := by
  unfold State.countBound
  dsimp only
  split
  · exact h.trans (h.setCounter ..) (h.thresholdReached ..)
  · exact h.setCounter ..

theorem report (i : SrcNum) (k : RefusalKind) : R s (s.report i k) := by
  unfold State.report
  split
  · exact h.countBound ..
  · exact h.refl s

theorem refuse (a : Access) (k : RefusalKind) : R s (s.refuse a k) :=
  h.trans (h.endRefused s a k) (h.report _ a.src k)

/-! ### Holds and reports -/

theorem enterHold (a : HostAccess) (r : HoldReason) : R s (s.enterHold a r) := by
  unfold State.enterHold
  split
  · exact h.refuse ..
  · exact h.quiet rfl

theorem settle (a : HostAccess) (v : Verdict) : R s (s.settle a v) := by
  cases v with
  | done => exact h.quiet rfl
  | refused k => exact h.refuse ..
  | hold => exact h.enterHold ..
  | send r => exact h.quiet rfl

theorem deliver (p : Report) : R s (s.deliver p) := by
  unfold State.deliver
  split
  · split
    · split
      · exact h.settle ..
      · exact h.refl s
    · exact h.refl s
  · exact h.refl s

theorem requestRollback (c : CtxNum) (k : Cause) : R s (s.requestRollback c k) :=
  h.trans (h.takeRollback s c k) (h.deliver ..)

theorem requestHit (g : GuardHit) : R s (s.requestHit g) := by
  unfold State.requestHit
  split
  · exact h.requestRollback ..
  · exact h.refl s

theorem reportHits (l : List GuardHit) : R s (s.reportHits l) :=
  h.trans (h.foldl s (fun t _ => h.raise t ..) l) (h.foldl _ (fun t x => h.requestHit t x) l)

theorem capacityAbort (a : Access) (c : CtxNum) (k : RefusalKind) : R s (s.capacityAbort a c k) := by
  unfold State.capacityAbort
  split
  · refine h.trans (h.quiet (t := State.endRefused { s with choices := s.choices + 1 } a k) rfl) ?_
    dsimp only
    split
    · exact h.trans (h.requestRollback ..) (h.countBound ..)
    · exact h.trans (h.countBound ..) (h.requestRollback ..)
  · exact h.trans (h.refuse ..) (h.requestRollback ..)

theorem capacityOutcome (a : HostAccess) (c : CtxNum) (q : Shortage) : R s (s.capacityOutcome a c q) := by
  unfold State.capacityOutcome
  split
  · exact h.enterHold ..
  · exact h.enterHold ..
  · exact h.refuse ..
  · exact h.refuse ..
  · exact h.capacityAbort ..

theorem lowWater (n : Nat) : R s (s.lowWater n) := by
  unfold State.lowWater
  split
  · exact h.raise ..
  · exact h.refl s

theorem arbitrate : R s s.arbitrate := h.quiet s.arbitrate_tables.symm

theorem freezeAccess : R s s.freezeAccess := by
  unfold State.freezeAccess
  split
  · exact h.refl s
  · split
    · exact h.refuse ..
    · split
      · exact h.refl s
      · exact h.refuse ..

theorem tickHold : R s s.tickHold := by
  unfold State.tickHold
  split
  · split
    · exact h.refuse ..
    · exact h.quiet rfl
  · exact h.refl s

theorem frame {f : State → State} (hf : R s (f s)) : R s (s.frame f) := by
  unfold State.frame
  split
  · exact h.refl s
  · exact hf

end Keeps

/-! ### Ordinary commands -/

/-- The commands that change neither the mode nor the geometry, and carry no grant. -/
def ordinary : Instr → Bool
  | .setGeometry _ _ _ | .format | .recover | .gate | .pfailAsserted | .reset | .resetEnd => false
  | c => !c.isGrant

/-- A relation that the ordinary commands keep: also a commit taken, a timer of an OPEN context set, a context opened, a
FAULTED context queued again, a short frame counted, an event popped, and an arming read overtaken. -/
structure KeepsCommands (R : State → State → Prop) : Prop extends Keeps R where
  takeCommit : ∀ (s : State) c, R s (s.takeCommit c)
  retime : ∀ {s : State} {c t e} t', s.ctx c = .active (.opened t) e → R s (s.setCtx c (.active (.opened t') e))
  openWith : ∀ {s : State} {c i n rest}, s.mode = .run → (s.source i).bound = none → s.ctx c = .free →
    s.pool = n :: rest → R s (s.openWith c i n rest)
  requeue : ∀ {s : State} {c k f e p} z, s.mode = .run → s.ctx c = .active (.faulted k f) e →
    p = .rollingBack k ∨ p = .discarding → R s ((s.setCtx c (.active p e)).enqueue c z)
  countShort : ∀ s : State, R s { s with shortFrames := saturate s.shortFrames, sdo := [] }
  popEvent : ∀ {s : State} {e rest}, s.events = e :: rest → R s { s with events := rest }
  dropArming : ∀ (s : State) i, R s (s.dropArming i)

/-- What TOUCH does once the mode and the context number are in order: the rest of R14. -/
def State.touchFor (s : State) (c : CtxNum) : State :=
  if !(s.ctx c).isOpen then s.answer .wrongState else (s.reloadIdle c).answer .ok

theorem exec_touch (s : State) (b : Byte) : exec (.touch b) s = .next (s.contextFrame b State.touchFor) := rfl

theorem State.ctx_freeContext {s : State} {c : CtxNum} (h : s.freeContext = some c) : s.ctx c = .free :=
  (Context.isFree_iff _).1 (List.find?_some (p := fun c => (s.ctx c).isFree) h)

namespace KeepsCommands

variable {R : State → State → Prop} (h : KeepsCommands R) (s : State)
include h

theorem reloadIdle (c : CtxNum) : R s (s.reloadIdle c) := by
  unfold State.reloadIdle
  split
  · next hc =>
    split
    · exact h.refl s
    · exact h.retime _ hc
  · exact h.refl s

theorem tickIdle (c : CtxNum) : R s (s.tickIdle c) := by
  unfold State.tickIdle
  split
  · next hc =>
    split
    · exact h.retime _ hc
    · split
      · exact h.requestRollback ..
      · exact h.retime _ hc
  · exact h.refl s

theorem tick : R s s.tick := by
  unfold State.tick
  split
  · exact h.trans (h.trans (h.tickHold s) (h.foldl _ h.tickIdle _)) (h.arbitrate _)
  · exact h.refl s

theorem openFor (i : SrcNum) (hm : s.mode = .run) : R s (s.openFor i) := by
  unfold State.openFor
  split
  · exact h.answer ..
  · split
    · exact h.answer ..
    · next hb =>
      split
      · exact h.answer ..
      · exact h.answer ..
      · next hf hp =>
        have opened := h.openWith hm (Option.not_isSome_iff_eq_none.1 hb) (State.ctx_freeContext hf) hp
        exact h.trans (h.trans opened (h.respond ..)) (h.trans (h.deliver ..) (h.arbitrate _))

theorem commitFor (c : CtxNum) : R s (s.commitFor c) := by
  unfold State.commitFor
  split
  · exact h.answer ..
  · split
    · exact h.answer ..
    · exact h.trans (h.trans (h.takeCommit ..) (h.deliver ..)) (h.trans (h.answer ..) (h.arbitrate _))

theorem abortFor (c : CtxNum) : R s (s.abortFor c) := by
  unfold State.abortFor
  split
  · exact h.answer ..
  · exact h.trans (h.requestRollback ..) (h.trans (h.answer ..) (h.arbitrate _))

theorem touchFor (c : CtxNum) : R s (s.touchFor c) := by
  unfold State.touchFor
  split
  · exact h.answer ..
  · exact h.trans (h.reloadIdle ..) (h.answer ..)

theorem retryFor (c : CtxNum) (hm : s.mode = .run) : R s (s.retryFor c) := by
  unfold State.retryFor
  split
  · next hc =>
    split
    · exact h.answer ..
    · exact h.trans (h.requeue _ hm hc (.inl rfl)) (h.trans (h.answer ..) (h.arbitrate _))
  · exact h.answer ..

theorem discardFor (c : CtxNum) (hm : s.mode = .run) : R s (s.discardFor c) := by
  unfold State.discardFor
  split
  · next hc => exact h.trans (h.requeue _ hm hc (.inr rfl)) (h.trans (h.answer ..) (h.arbitrate _))
  · exact h.answer ..

theorem contextFrame {f : State → CtxNum → State} (b : Byte) (hf : s.mode = .run → ∀ c, R s (f s c)) :
    R s (s.contextFrame b f) := by
  refine h.frame s ?_
  split
  · exact h.answer ..
  · next hm =>
    split
    · exact h.answer ..
    · exact hf (not_not.1 hm) _

/-- A relation that the ordinary commands keep holds across each of them. -/
theorem exec_ordinary {c : Instr} (hc : ordinary c = true) {t : State} (e : exec c s = .next t) : R s t := by
  cases c
  case setGeometry | format | recover | gate | pfailAsserted | reset | resetEnd => exact nomatch hc
  case forwardedRead | forwardedWrite | journalledWriteGrant | armingRead | commitMarker | restoreStep | abortMarker
      | discardMarker | freeingStep | formatStep | surveyStep | judgementFinalSegment | judgementSegment
      | claimRebuild => exact nomatch hc
  case getId | getStatus | ackLost | repeatResponse | getLimits | badOpcode =>
    cases e
    exact h.frame s (h.quiet rfl)
  case shortFrame => cases e; exact h.frame s (h.countShort s)
  case strobeIgnored | pfailDeasserted => cases e; exact h.quiet rfl
  case getRegion | getGuard | getContext | getCounters =>
    cases e
    refine h.frame s ?_
    split <;> exact h.quiet rfl
  case setLimits | setRegion | setAccounting | setEventMask | setStatSelect =>
    cases e
    refine h.frame s (h.quiet ?_)
    (repeat' split) <;> rfl
  case popEvent =>
    cases e
    refine h.frame s ?_
    split
    · exact h.quiet rfl
    · next he => exact h.trans (h.popEvent he) (h.quiet rfl)
  case setGuard =>
    cases e
    refine h.frame s ?_
    split
    · exact h.quiet rfl
    · split
      · split
        · exact h.quiet rfl
        · exact h.trans (h.trans (h.setGuard ..) (h.dropArming ..)) (h.trans (h.answer ..) (h.arbitrate _))
      · exact h.quiet rfl
  case openEpoch b =>
    cases e
    refine h.frame s ?_
    split
    · exact h.answer ..
    · next hm =>
      split
      · exact h.answer ..
      · exact h.openFor s _ (not_not.1 hm)
  case commit b => cases (exec_commit s b).symm.trans e; exact h.contextFrame s b fun _ => h.commitFor s
  case abort b => cases (exec_abort s b).symm.trans e; exact h.contextFrame s b fun _ => h.abortFor s
  case touch b => cases (exec_touch s b).symm.trans e; exact h.contextFrame s b fun _ => h.touchFor s
  case retry b => cases (exec_retry s b).symm.trans e; exact h.contextFrame s b fun hm c => h.retryFor s c hm
  case discard b => cases (exec_discard s b).symm.trans e; exact h.contextFrame s b fun hm c => h.discardFor s c hm
  case clearCounters =>
    cases e
    refine h.frame s ?_
    split
    · exact h.quiet rfl
    · split
      · split
        · exact h.quiet rfl
        · have clear (t : State) (i : SrcNum) (g : Group) (b : Bool) : R t (t.clearIf i g b) := by
            unfold State.clearIf
            split <;> exact h.quiet rfl
          exact h.trans (h.trans (h.trans (clear ..) (clear ..)) (clear ..)) (h.quiet rfl)
      · exact h.quiet rfl
  case unfence =>
    cases e
    refine h.frame s ?_
    split
    · exact h.quiet rfl
    · split
      · exact h.trans (h.quiet (s.setFence_tables _ _).symm) (h.quiet rfl)
      · exact h.quiet rfl
  case hostAccessStart =>
    cases e
    split
    · exact h.refl s
    · exact h.trans (h.quiet (t := { s with herr := false }) rfl) (h.trans (h.settle ..) (h.arbitrate _))
  case idleExpiry =>
    cases e
    split
    · exact h.trans (h.requestRollback ..) (h.arbitrate _)
    · exact h.refl s
  case holdExpired =>
    cases e
    split
    · exact h.trans (h.refuse ..) (h.arbitrate _)
    · exact h.refl s

end KeepsCommands

end Sys2Proof.Machine
end

section
/-! SUPPORT. Relations that every grant row and PFAIL# keep: the start of a grant, its accesses and its end, from the elementary updates they are composed of. -/

namespace Sys2Proof.Machine

/-! ### The start and the end of a grant -/

/-- Whether a task is a step of the Replay Engine or of the format and recovery work. -/
def Task.isEngine : Task → Bool
  | .forwardedRead _ | .forwardedWrite _ _ | .journalledWrite _ | .armingRead _ _ => false
  | _ => true

/-- A relation that the grant rows keep: also the port freed, a grant begun or changed within its task, a word written,
a claim made or released, a chain extended, the fields of an epoch changed but for its source and chain, an engine step
begun or ended. -/
structure KeepsRows (R : State → State → Prop) : Prop extends KeepsCommands R where
  freePort : ∀ s : State, R s s.freePort
  startGrant : ∀ (s : State) {t} plan, t.isEngine = false → R s (s.startGrant t plan)
  regrant : ∀ (s : State) (f : Grant → Grant), (∀ g, (f g).task.jobCtx = g.task.jobCtx) →
    R s { s with grant := s.grant.map f }
  store : ∀ (s : State) a be w, R s (s.store a be w)
  insertClaim : ∀ (s : State) a c, R s (s.insertClaim a c)
  releaseClaim : ∀ (s : State) a c, R s (s.releaseClaim a c)
  extendChain : ∀ {s : State} {c p e}, s.ctx c = .active p e → (¬ e.fill < 15 → s.pool ≠ []) → R s (s.extendChain c e)
  mapEpoch : ∀ (s : State) c (f : Epoch → Epoch), (∀ e, (f e).source = e.source ∧ (f e).chain = e.chain) →
    R s (s.mapEpoch c f)
  startTask : ∀ {s : State} {t}, s.dueTask = some t → R s (s.startTask t)
  finishEngine : ∀ {s : State} {g}, s.grant = some g → g.task.isEngine = true → R s (s.finish g)

/-- A relation that also PFAIL# keeps: the mode becomes FROZEN. -/
structure KeepsGrants (R : State → State → Prop) : Prop extends KeepsRows R where
  freeze : ∀ s : State, R s { s with mode := .frozen }

/-- A capacity check that finds no shortage leaves a segment in the pool when one is needed (R49). -/
theorem State.pool_of_shortage_none {s : State} {c : CtxNum} {e : Epoch} (h : s.shortage c e = none)
    (hf : ¬ e.fill < 15) : s.pool ≠ [] := by
  intro hp
  unfold State.shortage at h
  split at h
  · exact nomatch h
  · split at h
    · exact nomatch h
    · split at h
      · exact nomatch h
      · rw [hp] at h; exact nomatch h

theorem State.insertClaim_contexts (s : State) (a : Addr) (c : CtxNum) : (s.insertClaim a c).contexts = s.contexts := by
  unfold State.insertClaim; split <;> rfl

theorem State.insertClaim_pool (s : State) (a : Addr) (c : CtxNum) : (s.insertClaim a c).pool = s.pool := by
  unfold State.insertClaim; split <;> rfl

theorem State.ctx_insertClaim (s : State) (a : Addr) (c d : CtxNum) : (s.insertClaim a c).ctx d = s.ctx d := by
  rw [State.ctx, State.insertClaim_contexts]; rfl

theorem Context.active_of_epoch {x : Context} {e : Epoch} (h : x.epoch = some e) : ∃ p, x = .active p e := by
  cases x with
  | free => exact nomatch h
  | active p e' => exact ⟨p, congrArg _ (Option.some.inj h)⟩

namespace KeepsRows

variable {R : State → State → Prop} (h : KeepsRows R) (s : State)
include h

/-! ### Host-path grants and guard arming -/

theorem startForwarded (a : HostAccess) : R s (s.startForwarded a) := by
  unfold State.startForwarded
  dsimp only
  split <;> exact h.startGrant s _ rfl

theorem startJournalled (a : HostAccess) (c : CtxNum) : R s (s.startJournalled a c) := by
  unfold State.startJournalled
  split
  · exact h.freePort s
  · next e he =>
    split
    · exact h.trans (h.freePort s) (h.capacityOutcome ..)
    · next hshort =>
      obtain ⟨p, hp⟩ := Context.active_of_epoch he
      have extended := h.extendChain (s := s.insertClaim a.acc.addr c) (c := c) (p := p) (e := e)
        (by rw [State.ctx_insertClaim, hp])
        (by rw [State.insertClaim_pool]; exact State.pool_of_shortage_none hshort)
      exact h.trans (h.trans (h.insertClaim s a.acc.addr c) extended) (h.startGrant _ _ rfl)

theorem startHost (a : HostAccess) (r : Route) : R s (s.startHost a r) := by
  unfold State.startHost
  dsimp only
  split
  · split
    · exact h.startForwarded s a
    · exact h.startJournalled s a _
  · exact h.trans (h.freePort s) (h.settle ..)

theorem hostStart {fits : Route → Bool → Bool} {t : State} (e : s.hostStart fits = some t) : R s t := by
  unfold State.hostStart at e
  split at e
  · split at e
    · split at e
      · cases e; exact h.startHost ..
      · exact nomatch e
    · exact nomatch e
  · exact nomatch e

theorem startArming : R s s.startArming := by
  unfold State.startArming
  split
  · exact h.startGrant s _ rfl
  · exact h.freePort s

theorem startGiven : R s s.startGiven := by
  rcases s.startGiven_cases with ⟨e, -⟩ | ⟨e, -, -⟩ | ⟨-, -, e⟩ | ⟨t, -, -, hdue, e⟩
  · rw [e]; exact h.refl s
  · rw [e]; exact h.freePort s
  · exact h.hostStart s e
  · rw [e]; exact h.startTask hdue

theorem finish {g : Grant} (hg : s.grant = some g) : R s (s.finish g) := by
  unfold State.finish
  split
  case h_1 => exact h.trans (h.freePort s) (h.quiet rfl)
  case h_2 =>
    unfold State.finishWrite
    dsimp only
    have ended : R s s.freePort.endDone := h.trans (h.freePort s) (h.quiet rfl)
    split
    · exact h.trans (h.trans ended (h.reloadIdle ..)) (h.reportHits ..)
    · exact h.trans ended (h.reportHits ..)
  case h_3 =>
    have ended : R s s.freePort.endDone := h.trans (h.freePort s) (h.quiet rfl)
    exact h.trans (h.trans ended (h.reloadIdle ..)) (h.reportHits ..)
  case h_4 =>
    unfold State.finishArming
    dsimp only
    split
    · exact h.trans (h.freePort s) (h.setGuard ..)
    · exact h.freePort s
  all_goals
    next ht =>
    have e := h.finishEngine hg (by rw [ht]; rfl)
    rwa [State.finish, ht] at e

/-! ### The accesses of a grant -/

theorem setTodo (l : List PlannedOp) : R s (s.setTodo l) := h.regrant s _ fun _ => rfl

theorem evaluate (a : Addr) (v : Word) (w : Option CtxNum) (i : SrcNum) (b : Bool) (j : Fin 8) :
    R s (s.evaluate a v w i b j) := by
  have hit (t : State) (x : GuardHit) : R t (t.addHit x) := h.regrant t _ fun _ => rfl
  have late (t : State) : R t (t.addLate j) := h.regrant t _ fun _ => rfl
  unfold State.evaluate
  dsimp only
  split
  · split
    · exact h.refl s
    · have moved (x : Guard) (make : Bool) :
          R s (if make || b then (s.setGuard j x).addLate j else s.setGuard j x) := by
        split
        · exact h.trans (h.setGuard ..) (late _)
        · exact h.setGuard ..
      split
      · exact h.trans (moved ..) (hit ..)
      · exact moved ..
  · exact h.refl s

theorem mark (m : Mark) : R s (s.mark m) := by
  cases m with
  | quiet => exact h.refl s
  | preimage v =>
    refine h.regrant s _ fun g => ?_
    split
    · next ht => rw [ht]; rfl
    · rfl
  | header c => exact h.mapEpoch s c _ fun _ => ⟨rfl, rfl⟩
  | record c k => exact h.mapEpoch s c _ fun _ => ⟨rfl, rfl⟩
  | marker c => exact h.mapEpoch s c _ fun _ => ⟨rfl, rfl⟩
  | restored c a => exact h.trans (h.releaseClaim s a c) (h.mapEpoch _ c _ fun _ => ⟨rfl, rfl⟩)
  | watched a v w i b => exact h.foldl s (fun t j => h.evaluate t a v w i b j) _

theorem perform (p : PlannedOp) : R s (s.perform p) := by
  have port : R s (s.port p.op) := by
    cases p.op with
    | read a => exact h.refl s
    | write a be w => exact h.store s a be w
  exact h.trans port (h.mark ..)

theorem performAll (l : List PlannedOp) : R s (s.performAll l) := h.foldl s h.perform l

/-! ### The rows -/

theorem finishGrant : R s s.finishGrant := by
  unfold State.finishGrant
  split
  · next hg => exact h.trans (h.finish s hg) (h.arbitrate _)
  · exact h.refl s

theorem advance (x : Extent) : R s (s.advance x) := by
  unfold State.advance
  split
  · exact h.refl s
  · split
    · exact h.trans (h.trans (h.setTodo ..) (h.performAll ..)) (h.finishGrant _)
    · exact h.trans (h.setTodo ..) (h.performAll ..)

theorem grantRow {start : Option State} (hs : ∀ t, start = some t → R s t) (r : Requester) (mine : Task → Bool)
    (x : Extent) : R s (s.grantRow r mine start x) := by
  unfold State.grantRow
  split
  · split
    · split
      · exact h.advance s x
      · exact h.refl s
    · split
      · exact h.refl s
      · next t hstart =>
        refine h.trans (hs t rfl) ?_
        unfold State.afterStart
        split
        · exact h.advance t x
        · exact h.arbitrate t
      · exact h.refl s
  · exact h.refl s

theorem hostRow (mine : Task → Bool) (fits : Route → Bool → Bool) (x : Extent) : R s (s.hostRow mine fits x) :=
  h.grantRow s (fun _ e => h.hostStart s e) ..

theorem armingRow (mine : Task → Bool) (x : Extent) : R s (s.armingRow mine x) :=
  h.grantRow s (fun _ e => Option.some.inj e ▸ h.startArming s) ..

theorem engineRow (mine : Task → Bool) (x : Extent) : R s (s.engineRow mine x) := by
  refine h.grantRow s (fun t e => ?_) ..
  obtain ⟨task, hdue, rfl⟩ := Option.map_eq_some_iff.1 e
  exact h.startTask (Option.filter_eq_some_iff.1 hdue).1

/-- A relation that the grant rows keep holds across each of them. -/
theorem exec_grant {c : Instr} (hc : c.isGrant = true) {t : State} (e : exec c s = .next t) : R s t := by
  cases c
  case forwardedRead | forwardedWrite | journalledWriteGrant => cases e; exact h.hostRow ..
  case armingRead => cases e; exact h.armingRow ..
  case commitMarker | restoreStep | abortMarker | discardMarker | freeingStep | formatStep | surveyStep
      | judgementFinalSegment | judgementSegment | claimRebuild => cases e; exact h.engineRow ..
  all_goals exact nomatch hc

end KeepsRows

namespace KeepsGrants

variable {R : State → State → Prop} (h : KeepsGrants R) (s : State)
include h

/-! ### Power failure, and every command but those that set the part up -/

theorem exec_pfailAsserted {t : State} (e : exec .pfailAsserted s = .next t) : R s t := by
  cases e
  split
  · exact h.quiet rfl
  · have level : R s { s with pfail := true } := h.quiet rfl
    exact h.trans (h.trans (h.trans level (h.startGiven _)) (h.freeze _)) (h.freezeAccess _)

theorem exec_resetEnd {t : State} (e : exec .resetEnd s = .next t) : R s t := by
  cases e
  split
  · cases hp : s.pfail with
    | true => exact h.trans (h.freeze s) (h.quiet (by rw [if_pos rfl]; rfl))
    | false => exact h.quiet rfl
  · exact h.refl s

end KeepsGrants

/-- The commands that only GATED takes, GATE, and a reset: those that change more than a relation of this kind keeps. -/
def setsUp : Instr → Bool
  | .setGeometry _ _ _ | .format | .recover | .gate | .reset => true
  | _ => false

/-- A relation that the grant rows and PFAIL# keep holds across every command but those that set the part up. -/
theorem KeepsGrants.exec {R : State → State → Prop} (h : KeepsGrants R) {c : Instr} (hc : setsUp c = false)
    {s t : State} (e : Machine.exec c s = .next t) : R s t := by
  cases hg : c.isGrant with
  | true => exact h.exec_grant s hg e
  | false =>
    cases ho : ordinary c with
    | true => exact h.exec_ordinary s ho e
    | false =>
      cases c
      case setGeometry | format | recover | gate | reset => exact nomatch hc
      case pfailAsserted => exact h.exec_pfailAsserted s e
      case resetEnd => exact h.exec_resetEnd s e
      case forwardedRead | forwardedWrite | journalledWriteGrant | armingRead | commitMarker | restoreStep | abortMarker
          | discardMarker | freeingStep | formatStep | surveyStep | judgementFinalSegment | judgementSegment
          | claimRebuild => exact nomatch hg
      all_goals exact nomatch ho

end Sys2Proof.Machine
end

section
/-! SUPPORT. The tables that every step keeps proper: the canonical memory, the bounded event queue (R162) and the Claim Table (R43), and the statement. -/

namespace Sys2Proof.Machine

/-! ### The relation, across the elementary updates -/

/-- What was proper of memory, the event queue and the Claim Table is proper after. -/
def TablesKept (s t : State) : Prop :=
  (s.MemoryCanonical → t.MemoryCanonical) ∧ (s.EventsBounded → t.EventsBounded) ∧ (s.ClaimsProper → t.ClaimsProper)

namespace TablesKept

theorem of_same {s t : State} (hm : t.mem = s.mem) (he : t.events = s.events) (hc : t.claims = s.claims) :
    TablesKept s t := by
  unfold TablesKept State.MemoryCanonical State.EventsBounded State.ClaimsProper
  rw [hm, he, hc]
  exact ⟨id, id, id⟩

theorem trans {s t u : State} (h : TablesKept s t) (h' : TablesKept t u) : TablesKept s u :=
  ⟨h'.1 ∘ h.1, h'.2.1 ∘ h.2.1, h'.2.2 ∘ h.2.2⟩

/-- From a state whose tables are those of `s`. -/
theorem after {s t u : State} (h : TablesKept t u) (hm : t.mem = s.mem) (he : t.events = s.events)
    (hc : t.claims = s.claims) : TablesKept s u := trans (of_same hm he hc) h

variable (s : State)

theorem raise (k c i d n a) : TablesKept s (s.raise k c i d n a) := by
  unfold State.raise
  split
  · split
    · next hroom =>
      refine ⟨id, fun _ => ?_, id⟩
      exact (List.length_append (as := s.events)).trans_le (Nat.succ_le_of_lt hroom)
    · exact of_same rfl rfl rfl
  · exact of_same rfl rfl rfl

theorem takeRollback (c : CtxNum) (k : Cause) : TablesKept s (s.takeRollback c k) := by
  unfold State.takeRollback
  split
  · split
    · exact after (raise ..) rfl rfl rfl
    · exact of_same rfl rfl rfl
  · exact of_same rfl rfl rfl

theorem takeCommit (c : CtxNum) : TablesKept s (s.takeCommit c) := by
  unfold State.takeCommit
  split
  · split
    · exact after (raise ..) rfl rfl rfl
    · exact of_same rfl rfl rfl
  · exact of_same rfl rfl rfl

theorem keeps : Keeps TablesKept where
  trans := trans
  quiet h := of_same (congrArg State.mem h).symm (congrArg State.events h).symm (congrArg State.claims h).symm
  raise := raise
  takeRollback := takeRollback

theorem keepsCommands : KeepsCommands TablesKept where
  toKeeps := keeps
  takeCommit := takeCommit
  retime _ _ := of_same rfl rfl rfl
  openWith _ _ _ _ := after (keeps.lowWater ..) rfl rfl rfl
  requeue _ _ _ _ := of_same rfl rfl rfl
  countShort _ := of_same rfl rfl rfl
  popEvent he := by
    refine ⟨id, fun hb => ?_, id⟩
    rw [State.EventsBounded, he] at hb
    exact Nat.le_of_succ_le hb
  dropArming _ _ := of_same rfl rfl rfl

/-! ### Claims -/

end TablesKept

/-- A word without an owner is the address of no claim (R45). -/
theorem State.owner_eq_none_iff (s : State) (a : Addr) : s.owner a = none ↔ a ∉ s.claims.map (·.addr) := by
  unfold State.owner
  rw [Option.map_eq_none_iff, List.find?_eq_none, List.mem_map]
  simp only [beq_iff_eq]
  exact ⟨fun h ⟨k, hk, ha⟩ => h k hk ha, fun h k hk ha => h ⟨k, hk, ha⟩⟩

namespace TablesKept

variable (s : State)

theorem insertClaim (a : Addr) (c : CtxNum) : TablesKept s (s.insertClaim a c) := by
  unfold State.insertClaim
  split
  · exact of_same rfl rfl rfl
  · next hfree =>
    obtain ⟨howner, hroom⟩ := not_or.1 (mt Bool.or_eq_true_iff.2 hfree)
    have hnew := (s.owner_eq_none_iff a).1 (Option.not_isSome_iff_eq_none.1 howner)
    exact ⟨id, id, fun hp => ⟨Nat.not_le.1 (mt decide_eq_true hroom), List.nodup_cons.2 ⟨hnew, hp.2⟩⟩⟩

theorem of_filter {t : State} (p : Claim → Bool) (hm : t.mem = s.mem) (he : t.events = s.events)
    (hc : t.claims = s.claims.filter p) : TablesKept s t := by
  unfold TablesKept State.MemoryCanonical State.EventsBounded State.ClaimsProper
  rw [hm, he, hc]
  exact ⟨id, id, fun hp => ⟨(List.length_filter_le ..).trans hp.1, hp.2.sublist ((List.filter_sublist ..).map _)⟩⟩

theorem rebuildSlots (c : CtxNum) (e : Identity) (n m k : Nat) : TablesKept s (s.rebuildSlots c e n m k) := by
  induction m generalizing s k with
  | zero => exact of_same rfl rfl rfl
  | succ m ih =>
    refine trans ?_ (ih (s.rebuildSlot c e n k) (k + 1))
    unfold State.rebuildSlot
    dsimp only
    split
    · exact insertClaim ..
    · exact of_same rfl rfl rfl

theorem mapEpoch (c : CtxNum) (f : Epoch → Epoch) : TablesKept s (s.mapEpoch c f) := by
  unfold State.mapEpoch
  split <;> exact of_same rfl rfl rfl

/-! ### The ends of engine steps -/

theorem recoveryDone (r : Recovery) : TablesKept s (s.recoveryDone r) :=
  after (raise ..) rfl rfl rfl

theorem afterEngine : TablesKept s s.afterEngine := by
  unfold State.afterEngine
  split
  · next r _ =>
    split
    · unfold State.finishReplay
      dsimp only
      split
      · exact after (recoveryDone ..) rfl rfl rfl
      · exact of_same rfl rfl rfl
    · exact of_same rfl rfl rfl
  · exact of_same rfl rfl rfl

theorem queueJobs (r : Recovery) : TablesKept s (s.queueJobs r) :=
  after (afterEngine _) rfl rfl rfl

theorem nextChain (r : Recovery) : TablesKept s (s.nextChain r) := by
  unfold State.nextChain
  dsimp only
  split
  · exact queueJobs ..
  · exact of_same rfl rfl rfl

theorem faultChain (c : CtxNum) (g : List LiveSeg) : TablesKept s (s.faultChain c g) := by
  unfold State.faultChain
  split
  · exact of_same rfl rfl rfl
  · exact after (raise ..) rfl rfl rfl

theorem faultShort (c : CtxNum) (n k : Nat) (e : Epoch) : TablesKept s (s.faultShort c n k e) :=
  after (raise ..) rfl rfl rfl

theorem finishReleasingMarker (c : CtxNum) : TablesKept s (s.finishReleasingMarker c) :=
  trans (t := (s.freePort.setPhase c .freeing).releaseAll c) (of_filter s _ rfl rfl rfl) (keeps.deliver ..)

theorem finishRestore (c : CtxNum) (z : SlotPos) (f : Judged) (o : Bool) (l : List GuardHit) :
    TablesKept s (s.finishRestore c z f o l) := by
  unfold State.finishRestore
  dsimp only
  split
  · unfold State.faultJob
    split
    · exact after (raise ..) rfl rfl rfl
    · exact of_same rfl rfl rfl
  · exact of_same rfl rfl rfl
  · exact trans (after (keeps.reportHits (s.freePort.setPhase c _) l) rfl rfl rfl) (keeps.deliver ..)

theorem completionEvent (c : CtxNum) (p : Phase) (e : Epoch) : TablesKept s (s.completionEvent c p e) := by
  unfold State.completionEvent
  split
  · exact raise ..
  · exact raise ..
  · exact raise ..
  · exact of_same rfl rfl rfl

theorem tallyEnd (c : CtxNum) : TablesKept s (s.tallyEnd c) := by
  unfold State.tallyEnd
  split <;> exact of_same rfl rfl rfl

theorem finishFreeing (c : CtxNum) : TablesKept s (s.finishFreeing c) := by
  unfold State.finishFreeing
  split
  · exact of_same rfl rfl rfl
  · next p e _ =>
    split
    · exact of_same rfl rfl rfl
    · next x rest _ =>
      refine trans ?_ (keeps.deliver ..)
      split
      · have freed : TablesKept s ((s.freePort.returnSegs [x.seg]).dropHead.setCtx c .free) := of_same rfl rfl rfl
        exact trans (trans freed (completionEvent _ c p e)) (tallyEnd ..)
      · exact of_same rfl rfl rfl

theorem finishFormat : TablesKept s s.finishFormat := by
  unfold State.finishFormat
  dsimp only
  split
  · split
    · exact of_same rfl rfl rfl
    · exact after (raise ..) rfl rfl rfl
  · exact of_same rfl rfl rfl

theorem finishSurvey : TablesKept s s.finishSurvey := by
  unfold State.finishSurvey
  dsimp only
  split
  · split
    · exact of_same rfl rfl rfl
    · next n found _ _ =>
      unfold State.surveyEnd
      dsimp only
      generalize (if (s.slot n 0).liveHeader s.gen n = true then found ++ [liveSeg (s.slot n 0) n] else found) = kept
      have faulted := keeps.foldl { s.freePort with
          pool := (List.range s.freePort.nseg).filter fun n => !kept.any (fun x => x.seg == n) }
        (fun t c => faultChain t c (groupOf kept c))
        (eight.filter fun c => !(groupOf kept c).isEmpty && !isConsistent (groupOf kept c))
      have pooled : TablesKept s _ := after faulted rfl rfl rfl
      split
      · exact trans pooled (queueJobs ..)
      · exact trans pooled (of_same rfl rfl rfl)
  · exact of_same rfl rfl rfl

theorem finishJudgeFinal : TablesKept s s.finishJudgeFinal := by
  have freed : TablesKept s s.freePort := of_same rfl rfl rfl
  have set (c : CtxNum) (x : Context) : TablesKept s (s.freePort.setCtx c x) := of_same rfl rfl rfl
  unfold State.finishJudgeFinal
  dsimp only
  split
  · split
    · exact trans freed (queueJobs ..)
    · split
      · split
        · exact trans (set ..) (nextChain ..)
        · exact trans (trans freed (faultChain ..)) (nextChain ..)
        · split
          · exact trans (trans freed (faultChain ..)) (nextChain ..)
          · split
            · exact trans (set ..) (nextChain ..)
            · exact of_same rfl rfl rfl
      · exact trans freed (nextChain ..)
  · exact freed

theorem finishJudgeSegment : TablesKept s s.finishJudgeSegment := by
  have freed : TablesKept s s.freePort := of_same rfl rfl rfl
  unfold State.finishJudgeSegment
  dsimp only
  split
  · split
    · split
      · exact trans freed (nextChain ..)
      · split
        · exact trans (trans freed (faultShort ..)) (nextChain ..)
        · exact trans (trans freed (faultChain ..)) (nextChain ..)
        · split
          · exact after (nextChain ..) rfl rfl rfl
          · exact of_same rfl rfl rfl
    · exact trans freed (nextChain ..)
  · exact freed

theorem finishRebuild : TablesKept s s.finishRebuild := by
  have freed : TablesKept s s.freePort := of_same rfl rfl rfl
  unfold State.finishRebuild
  dsimp only
  split
  · next r c x rest _ =>
    have claimed := trans freed (rebuildSlots s.freePort c (s.rebuildIdentity r c x) x.seg 14 1)
    split
    · exact trans claimed (recoveryDone ..)
    · exact trans claimed (of_same rfl rfl rfl)
  · exact freed

theorem finishEngine {g : Grant} (hg : g.task.isEngine = true) : TablesKept s (s.finish g) := by
  unfold State.finish
  split
  case h_1 ht | h_2 ht | h_3 ht | h_4 ht => rw [ht] at hg; exact nomatch hg
  case h_5 | h_6 => exact finishReleasingMarker ..
  case h_7 => exact of_same rfl rfl rfl
  case h_8 => exact trans (finishRestore ..) (afterEngine _)
  case h_9 => exact trans (finishFreeing ..) (afterEngine _)
  case h_10 => exact finishFormat s
  case h_11 => exact finishSurvey s
  case h_12 => exact finishJudgeFinal s
  case h_13 => exact finishJudgeSegment s
  case h_14 => exact finishRebuild s

/-! ### Every step -/

theorem keepsGrants : KeepsGrants TablesKept where
  toKeepsCommands := keepsCommands
  freePort _ := of_same rfl rfl rfl
  startGrant _ _ _ _ := of_same rfl rfl rfl
  regrant _ _ _ := of_same rfl rfl rfl
  store _ _ _ _ := ⟨fun hm => Memory.wf_putWord _ _ _ _ hm, id, id⟩
  insertClaim := insertClaim
  releaseClaim s _ _ := of_filter s _ rfl rfl rfl
  extendChain _ _ := by
    unfold State.extendChain
    split
    · exact of_same rfl rfl rfl
    · refine trans ?_ (keeps.lowWater ..)
      exact after (mapEpoch ..) rfl rfl rfl
  mapEpoch s c f _ := mapEpoch s c f
  startTask _ := by
    unfold State.startTask
    split <;> exact of_same rfl rfl rfl
  finishEngine _ hg := finishEngine _ hg
  freeze _ := of_same rfl rfl rfl

/-- The commands that set the part up write no byte, raise no event and make no claim; a reset clears the queue and the
table. -/
theorem exec_setsUp {c : Instr} (hc : setsUp c = true) {s t : State} (e : exec c s = .next t) : TablesKept s t := by
  cases c
  case setGeometry | gate =>
    cases e
    refine keeps.frame s ?_
    (repeat' split) <;> exact of_same rfl rfl rfl
  case format | recover =>
    cases e
    refine keeps.frame s ?_
    split
    · exact keeps.answer ..
    · split
      · exact keeps.answer ..
      · exact after (keeps.arbitrate _) rfl rfl rfl
  case reset => cases e; exact ⟨id, fun _ => Nat.zero_le _, fun _ => ⟨Nat.zero_le _, List.nodup_nil⟩⟩
  all_goals exact nomatch hc

end TablesKept

theorem step_tablesKept {s t : State} (e : step s = .next t) : TablesKept s t := by
  unfold step at e
  split at e
  · cases e; exact TablesKept.keepsCommands.tick s
  · next c rest _ =>
    refine TablesKept.trans (t := { s with pending := rest }) (.of_same rfl rfl rfl) ?_
    cases hc : setsUp c with
    | true => exact TablesKept.exec_setsUp hc e
    | false => exact TablesKept.keepsGrants.exec hc e

/-- Settles O57: every elementary update keeps each of the three, and every step is composed of elementary updates. -/
theorem stepKeepsTablesProper : Obligations.StepKeepsTablesProper :=
  ⟨fun _ _ hm e => (step_tablesKept e).1 hm, fun _ _ e => ⟨(step_tablesKept e).2.1, (step_tablesKept e).2.2⟩⟩

end Sys2Proof.Machine
end

section
/-! SUPPORT. The conservation of segments (R38): the pool and the chains together, across every elementary update with no format or recovery work in force, and the statement. -/

namespace Sys2Proof.Machine

/-! ### The segments of a context -/

/-- The segment numbers of a context's chain. -/
def Context.segs (x : Context) : List Nat := (x.epoch.elim [] (·.chain)).map (·.seg)

theorem eight_nodup : eight.Nodup := by decide

theorem State.count_chainSegs (s : State) (c : CtxNum) (a : Nat) :
    s.chainSegs.count a = (s.ctx c).segs.count a + ((eight.erase c).flatMap fun d => (s.ctx d).segs).count a := by
  have h : s.chainSegs.Perm ((s.ctx c).segs ++ (eight.erase c).flatMap fun d => (s.ctx d).segs) :=
    (List.perm_cons_erase (eight_mem c)).flatMap_right _
  rw [h.count_eq, List.count_append]

/-- The chains after one context is replaced: its old segments go, its new ones come. -/
theorem State.count_chainSegs_set {s t : State} {c : CtxNum} {x : Context} (h : t.contexts = s.contexts.set c x) (a : Nat) :
    t.chainSegs.count a + (s.ctx c).segs.count a = s.chainSegs.count a + x.segs.count a := by
  have ctx (d : CtxNum) : t.ctx d = if d = c then x else s.ctx d := by
    rw [← s.setCtx_ctx, State.ctx, h]; rfl
  have others : ((eight.erase c).flatMap fun d => (t.ctx d).segs) = (eight.erase c).flatMap fun d => (s.ctx d).segs :=
    List.flatMap_congr fun d hd => by rw [ctx, if_neg (eight_nodup.mem_erase_iff.1 hd).1]
  rw [t.count_chainSegs c, s.count_chainSegs c, others, ctx, if_pos rfl]
  omega

/-! ### The relation, across the elementary updates -/

/-- With no format or recovery work in force none begins, and the pool and the chains together hold what they held. -/
structure SegmentsKept (s t : State) : Prop where
  kept : s.work = .idle → t.work = .idle ∧ (t.pool ++ t.chainSegs).Perm (s.pool ++ s.chainSegs)

namespace SegmentsKept

theorem of_same {s t : State} (hw : t.work = s.work) (hp : t.pool = s.pool) (hc : t.contexts = s.contexts) :
    SegmentsKept s t := by
  refine ⟨fun hi => ?_⟩
  unfold State.chainSegs State.ctx
  rw [hw, hp, hc]
  exact ⟨hi, .refl _⟩

theorem trans {s t u : State} (h : SegmentsKept s t) (h' : SegmentsKept t u) : SegmentsKept s u := by
  refine ⟨fun hi => ?_⟩
  obtain ⟨hw, hp⟩ := h.kept hi
  exact ⟨(h'.kept hw).1, (h'.kept hw).2.trans hp⟩

/-- From a state whose work, pool and contexts are those of `s`. -/
theorem after {s t u : State} (h : SegmentsKept t u) (hw : t.work = s.work) (hp : t.pool = s.pool)
    (hc : t.contexts = s.contexts) : SegmentsKept s u := trans (of_same hw hp hc) h

/-- One context replaced, when the pool and its chain together hold what they held. -/
theorem of_set {s t : State} {c : CtxNum} {x : Context} (hw : t.work = s.work) (hc : t.contexts = s.contexts.set c x)
    (hp : (t.pool ++ x.segs).Perm (s.pool ++ (s.ctx c).segs)) : SegmentsKept s t := by
  refine ⟨fun hi => ⟨hw.trans hi, List.perm_iff_count.2 fun a => ?_⟩⟩
  have chains := State.count_chainSegs_set hc a
  have pooled := hp.count_eq a
  rw [List.count_append, List.count_append] at pooled ⊢
  omega

/-- One context replaced by one with the same chain. -/
theorem of_set_same {s t : State} {c : CtxNum} {x : Context} (hw : t.work = s.work) (hp : t.pool = s.pool)
    (hc : t.contexts = s.contexts.set c x) (hx : x.segs = (s.ctx c).segs) : SegmentsKept s t :=
  of_set hw hc (by rw [hp, hx])

variable (s : State)

theorem raise (k c i d n a) : SegmentsKept s (s.raise k c i d n a) := by
  unfold State.raise
  split
  · split <;> exact of_same rfl rfl rfl
  · exact of_same rfl rfl rfl

section
variable {s} {c : CtxNum} {p : Phase} {e : Epoch} (hc : s.ctx c = .active p e)
include hc

theorem freeEmpty : SegmentsKept s (s.freeEmpty c e) := by
  refine of_set (c := c) (x := .free) rfl rfl ?_
  rw [hc, Context.segs, Context.segs]
  exact (List.append_nil _).symm ▸ .refl _

theorem leaveOpen (p' : Phase) : SegmentsKept s (s.leaveOpen c e p') :=
  of_set_same (c := c) (x := .active p' e) rfl rfl rfl (by rw [hc]; rfl)

end

theorem takeRollback (c : CtxNum) (k : Cause) : SegmentsKept s (s.takeRollback c k) := by
  unfold State.takeRollback
  split
  · next hc =>
    split
    · exact trans (freeEmpty hc) (raise ..)
    · exact leaveOpen hc _
  · exact of_same rfl rfl rfl

theorem takeCommit (c : CtxNum) : SegmentsKept s (s.takeCommit c) := by
  unfold State.takeCommit
  split
  · next hc =>
    split
    · exact trans (freeEmpty hc) (raise ..)
    · exact leaveOpen hc _
  · exact of_same rfl rfl rfl

theorem keeps : Keeps SegmentsKept where
  trans := trans
  quiet h := of_same (congrArg State.work h).symm (congrArg State.pool h).symm (congrArg State.contexts h).symm
  raise := raise
  takeRollback := takeRollback

theorem openWith {c : CtxNum} {i : SrcNum} {n : Nat} {rest : List Nat} (hc : s.ctx c = .free) (hp : s.pool = n :: rest) :
    SegmentsKept s (s.openWith c i n rest) := by
  refine trans ?_ (keeps.lowWater ..)
  refine of_set (c := c) rfl rfl ?_
  rw [hc, hp]
  exact (List.perm_append_singleton n rest).trans (.of_eq (List.append_nil _).symm)

theorem keepsCommands : KeepsCommands SegmentsKept where
  toKeeps := keeps
  takeCommit := takeCommit
  retime _ hc := of_set_same rfl rfl rfl (by rw [hc]; rfl)
  openWith _ _ hc hp := openWith _ hc hp
  requeue _ _ hc _ := of_set_same rfl rfl rfl (by rw [hc]; rfl)
  countShort _ := of_same rfl rfl rfl
  popEvent _ := of_same rfl rfl rfl
  dropArming _ _ := of_same rfl rfl rfl

theorem mapEpoch (c : CtxNum) (f : Epoch → Epoch) (hf : ∀ e, (f e).source = e.source ∧ (f e).chain = e.chain) :
    SegmentsKept s (s.mapEpoch c f) := by
  unfold State.mapEpoch
  split
  · exact of_same rfl rfl rfl
  · next p e hc =>
    refine of_set_same rfl rfl rfl ?_
    rw [hc]
    exact congrArg (List.map ChainEntry.seg) (hf e).2

/-- The segment that a chain takes is the pool head (R36, R79). -/
theorem extendChain {c : CtxNum} {p : Phase} {e : Epoch} (hc : s.ctx c = .active p e) (hp : ¬ e.fill < 15 → s.pool ≠ []) :
    SegmentsKept s (s.extendChain c e) := by
  unfold State.extendChain
  split
  · exact of_same rfl rfl rfl
  · next hf =>
    obtain ⟨n, rest, hpool⟩ := List.exists_cons_of_ne_nil (hp hf)
    have htail : State.ctx { s with pool := s.pool.tail } c = .active p e := hc
    refine trans ?_ (keeps.lowWater ..)
    simp only [State.mapEpoch, htail]
    refine of_set rfl rfl ?_
    rw [hc, hpool]
    simp only [Context.segs, Context.epoch, Option.elim_some, List.map_append, List.map_cons, List.map_nil, List.headD_cons,
      State.setCtx_pool, List.tail_cons]
    exact (List.append_assoc ..).symm ▸ List.perm_append_singleton n (rest ++ e.chain.map (·.seg))

/-! ### The ends of engine steps, with no work in force -/

theorem afterEngine : SegmentsKept s s.afterEngine := by
  refine ⟨fun hi => ?_⟩
  have same : s.afterEngine = s := by unfold State.afterEngine; rw [hi]
  rw [same]
  exact ⟨hi, .refl _⟩

theorem finishReleasingMarker (c : CtxNum) : SegmentsKept s (s.finishReleasingMarker c) :=
  after (keeps.deliver ..) rfl rfl rfl

theorem finishRestore (c : CtxNum) (z : SlotPos) (f : Judged) (o : Bool) (l : List GuardHit) :
    SegmentsKept s (s.finishRestore c z f o l) := by
  unfold State.finishRestore
  dsimp only
  split
  · unfold State.faultJob
    split
    · next cause e hc =>
      refine trans ?_ (raise ..)
      exact of_set_same (s := s) (c := c) rfl rfl rfl (congrArg Context.segs hc).symm
    · exact of_same rfl rfl rfl
  · exact of_same rfl rfl rfl
  · exact trans (after (keeps.reportHits (s.freePort.setPhase c _) l) rfl rfl rfl) (keeps.deliver ..)

theorem completionEvent (c : CtxNum) (p : Phase) (e : Epoch) : SegmentsKept s (s.completionEvent c p e) := by
  unfold State.completionEvent
  split
  · exact raise ..
  · exact raise ..
  · exact raise ..
  · exact of_same rfl rfl rfl

theorem tallyEnd (c : CtxNum) : SegmentsKept s (s.tallyEnd c) := by
  refine ⟨fun hi => ?_⟩
  have same : s.tallyEnd c = s := by unfold State.tallyEnd; rw [hi]
  rw [same]
  exact ⟨hi, .refl _⟩

/-- The head segment of the chain is the one that joins the pool tail (R40). -/
theorem finishFreeing (c : CtxNum) : SegmentsKept s (s.finishFreeing c) := by
  unfold State.finishFreeing
  split
  · exact of_same rfl rfl rfl
  · next p e hc =>
    split
    · exact of_same rfl rfl rfl
    · next x rest hchain =>
      have segs : (s.ctx c).segs = x.seg :: rest.map (·.seg) := by
        rw [hc]; exact congrArg (List.map ChainEntry.seg) hchain
      refine trans ?_ (keeps.deliver ..)
      split
      · next hrest =>
        have freed : SegmentsKept s ((s.freePort.returnSegs [x.seg]).dropHead.setCtx c .free) := by
          refine of_set (c := c) rfl rfl ?_
          rw [segs, List.isEmpty_iff.1 hrest]
          exact .of_eq (List.append_nil _)
        exact trans (trans freed (completionEvent _ c p e)) (tallyEnd ..)
      · refine of_set (c := c) (x := .active p { e with chain := rest }) rfl rfl ?_
        rw [segs]
        exact .of_eq (List.append_assoc s.pool [x.seg] _)

/-- With no work in force the rows of format and recovery end by freeing the port (log 28). -/
theorem finishWork {g : Grant} (hi : s.work = .idle)
    (hg : g.task ∈ [.formatStep, .survey, .judgeFinal, .judgeSegment, .rebuild]) : s.finish g = s.freePort := by
  simp only [List.mem_cons, List.not_mem_nil, or_false] at hg
  unfold State.finish State.finishFormat State.finishSurvey State.finishJudgeFinal State.finishJudgeSegment
    State.finishRebuild
  rw [hi]
  rcases hg with ht | ht | ht | ht | ht <;> rw [ht]

theorem finishEngine {g : Grant} (hg : g.task.isEngine = true) : SegmentsKept s (s.finish g) := by
  have work (hmem : g.task ∈ [.formatStep, .survey, .judgeFinal, .judgeSegment, .rebuild]) : SegmentsKept s (s.finish g) :=
    ⟨fun hi => by rw [finishWork s hi hmem]; exact (of_same rfl rfl rfl).kept hi⟩
  cases ht : g.task with
  | forwardedRead | forwardedWrite | journalledWrite | armingRead => rw [ht] at hg; exact nomatch hg
  | commitMarker | discardMarker => rw [State.finish, ht]; exact finishReleasingMarker ..
  | abortMarker => rw [State.finish, ht]; exact of_same rfl rfl rfl
  | restore => rw [State.finish, ht]; exact trans (finishRestore ..) (afterEngine _)
  | freeing => rw [State.finish, ht]; exact trans (finishFreeing ..) (afterEngine _)
  | formatStep | survey | judgeFinal | judgeSegment | rebuild => exact work (by rw [ht]; decide)

/-! ### Every step -/

theorem keepsGrants : KeepsGrants SegmentsKept where
  toKeepsCommands := keepsCommands
  freePort _ := of_same rfl rfl rfl
  startGrant _ _ _ _ := of_same rfl rfl rfl
  regrant _ _ _ := of_same rfl rfl rfl
  store _ _ _ _ := of_same rfl rfl rfl
  insertClaim s a c :=
    of_same (State.work_of_fixed (s.insertClaim_fixed a c)) (s.insertClaim_pool a c) (s.insertClaim_contexts a c)
  releaseClaim _ _ _ := of_same rfl rfl rfl
  extendChain hc hp := extendChain _ hc hp
  mapEpoch := mapEpoch
  startTask _ := by
    unfold State.startTask
    split <;> exact of_same rfl rfl rfl
  finishEngine _ hg := finishEngine _ hg
  freeze _ := of_same rfl rfl rfl

/-- Outside GATED the commands that set the part up move no segment. -/
theorem exec_setsUp {c : Instr} (hc : setsUp c = true) (hr : c ≠ .reset) {s t : State} (hm : s.mode ≠ .gated)
    (e : exec c s = .next t) : SegmentsKept s t := by
  cases c
  case setGeometry | format | recover =>
    cases e
    refine keeps.frame s ?_
    rw [if_pos hm]
    exact keeps.answer ..
  case gate =>
    cases e
    refine keeps.frame s ?_
    (repeat' split) <;> exact of_same rfl rfl rfl
  case reset => exact absurd rfl hr
  all_goals exact nomatch hc

end SegmentsKept

/-- Settles O59: every elementary update keeps the segments, every step outside GATED is composed of elementary
updates, and with no work in force none begins. -/
theorem stepConservesSegments : Obligations.StepConservesSegments := by
  intro s t hi hm hr e
  suffices kept : SegmentsKept s t from (kept.kept hi).2
  unfold step at e
  split at e
  · cases e; exact SegmentsKept.keepsCommands.tick s
  · next c rest hp =>
    rw [hp] at hr
    refine SegmentsKept.after (t := { s with pending := rest }) ?_ rfl rfl rfl
    cases hc : setsUp c with
    | true => exact SegmentsKept.exec_setsUp hc (fun hreset => hr (congrArg some hreset)) hm e
    | false => exact SegmentsKept.keepsGrants.exec hc e

end Sys2Proof.Machine
end

section
/-! SUPPORT. The law of the bindings (R4) and the law of the engine queue (R94), which hold together: across every elementary update, the commands that set the part up, and the ends of engine steps; and the statement. -/

namespace Sys2Proof.Machine

/-! ### The two laws together -/

/-- The law of the bindings and the law of the engine queue. -/
structure State.Lawful (s : State) : Prop where
  bindings : s.BindingsProper
  queue : s.QueueProper

theorem Context.isOpen_iff (x : Context) : x.isOpen = true ↔ ∃ t e, x = .active (.opened t) e := by
  refine ⟨fun h => ?_, fun ⟨t, e, h⟩ => h ▸ rfl⟩
  by_contra hnone
  exact Bool.false_ne_true ((Context.isOpen_false x fun t e hx => hnone ⟨t, e, hx⟩).symm.trans h)

theorem State.ctx_of_set {s t : State} {c : CtxNum} {x : Context} (h : t.contexts = s.contexts.set c x) (d : CtxNum) :
    t.ctx d = if d = c then x else s.ctx d := by
  rw [← s.setCtx_ctx, State.ctx, h]; rfl

theorem State.source_of_set {s t : State} {i : SrcNum} {x : Source} (h : t.sources = s.sources.set i x) (j : SrcNum) :
    t.source j = if j = i then x else s.source j := by
  rw [← s.setSource_source, State.source, h]; rfl

theorem State.not_reading_of_idle {s : State} (hw : s.work = .idle) : s.work.isReading ≠ true := by
  rw [hw]; exact Bool.false_ne_true

namespace State.Lawful

section
variable {s : State} (h : s.Lawful)
include h

/-- A context without a job is in no entry of the queue. -/
theorem ctx_ne_of_hasJob {c : CtxNum} (hc : (s.ctx c).hasJob = false) : ∀ q ∈ s.queue, q.ctx ≠ c :=
  fun q hq e => Bool.false_ne_true (hc.symm.trans (e ▸ h.queue.jobs q hq))

theorem mode_ne_gated {c : CtxNum} (hc : s.ctx c ≠ .free) : s.mode ≠ .gated :=
  fun hm => hc ((h.bindings.gated hm).2 c)

theorem mode_ne_gated_of_work (hw : s.work ≠ .idle) : s.mode ≠ .gated := fun hm => hw (h.bindings.gated hm).1

theorem mode_ne_gated_of_head {c : CtxNum} (hc : s.queue.head?.map (·.ctx) = some c) : s.mode ≠ .gated := by
  intro hm
  rw [h.queue.gated hm] at hc
  exact nomatch hc

theorem work_idle_of_open {c : CtxNum} (hc : (s.ctx c).isOpen = true) : s.work = .idle :=
  not_not.1 fun hw => Bool.false_ne_true ((h.bindings.work hw c).symm.trans hc)

theorem hasJob_of_head {c : CtxNum} (hc : s.queue.head?.map (·.ctx) = some c) : (s.ctx c).hasJob = true := by
  obtain ⟨q, hq, rfl⟩ := Option.map_eq_some_iff.1 hc
  exact h.queue.jobs q (List.mem_of_mem_head? hq)

end

/-! ### Updates of the bindings -/

section
variable {s t : State} {c : CtxNum} {x : Context} (h : s.BindingsProper)
  (hc : t.contexts = s.contexts.set c x) (hw : t.work = s.work) (hm : t.mode = s.mode) (hg : s.mode ≠ .gated)
include h hc hw hm hg

/-- A context that is not OPEN is replaced by one that is not. -/
theorem bindings_of_closed (hs : t.sources = s.sources) (hold : (s.ctx c).isOpen = false) (hx : x.isOpen = false) :
    t.BindingsProper := by
  have ctx := State.ctx_of_set hc
  have src (i : SrcNum) : t.source i = s.source i := by unfold State.source; rw [hs]
  have same {d : CtxNum} (hd : (t.ctx d).isOpen = true ∨ (s.ctx d).isOpen = true) : t.ctx d = s.ctx d := by
    rw [ctx] at hd ⊢
    split
    · next e => rw [if_pos e, hx, e, hold] at hd; exact absurd hd (by decide)
    · rfl
  refine ⟨fun i d hb => ?_, fun d u e hd => ?_, fun hwork d => ?_, fun hr => ?_, fun hgated => absurd (hm ▸ hgated) hg⟩
  · obtain ⟨u, e, hd, he⟩ := h.bound i d (src i ▸ hb)
    exact ⟨u, e, (same (.inr ((Context.isOpen_iff _).2 ⟨u, e, hd⟩))).trans hd, he⟩
  · rw [same (.inl ((Context.isOpen_iff _).2 ⟨u, e, hd⟩))] at hd
    rw [src]; exact h.opened d u e hd
  · rw [ctx]
    split
    · exact hx
    · exact h.work (hw ▸ hwork) d
  · rw [hw]; exact h.run (hm ▸ hr)

/-- An OPEN context is replaced by one that is not, and its source unbound. -/
theorem bindings_of_leave {u : Option Idle} {e : Epoch} {f : Bool} (hold : s.ctx c = .active (.opened u) e)
    (hs : t.sources = s.sources.set e.source ⟨none, f⟩) (hx : x.isOpen = false) : t.BindingsProper := by
  have ctx := State.ctx_of_set hc
  have src := State.source_of_set hs
  have hbound := h.opened c u e hold
  refine ⟨fun i d hb => ?_, fun d u' e' hd => ?_, fun hwork d => ?_, fun hr => ?_, fun hgated => absurd (hm ▸ hgated) hg⟩
  · rw [src] at hb
    split at hb
    · exact nomatch hb
    · next hi =>
      obtain ⟨u', e', hd, he⟩ := h.bound i d hb
      have hne : d ≠ c := by
        rintro rfl
        rw [hold] at hd
        cases hd
        exact hi he.symm
      exact ⟨u', e', (ctx d).trans ((if_neg hne).trans hd), he⟩
  · rw [ctx] at hd
    split at hd
    · rw [hd] at hx; exact nomatch hx
    · next hne =>
      have hother := h.opened d u' e' hd
      rw [src, if_neg]
      · exact hother
      · intro hsrc
        rw [hsrc, hbound] at hother
        exact hne (Option.some.inj hother).symm
  · rw [ctx]
    split
    · exact hx
    · exact h.work (hw ▸ hwork) d
  · rw [hw]; exact h.run (hm ▸ hr)

/-- A context is replaced by one of the same kind with the same source. -/
theorem bindings_of_alike {p p' : Phase} {e e' : Epoch} (hold : s.ctx c = .active p e) (hx : x = .active p' e')
    (hs : t.sources = s.sources) (hsrc : e'.source = e.source) (ho : x.isOpen = (s.ctx c).isOpen) : t.BindingsProper := by
  have ctx := State.ctx_of_set hc
  have src (i : SrcNum) : t.source i = s.source i := by unfold State.source; rw [hs]
  refine ⟨fun i d hb => ?_, fun d u e'' hd => ?_, fun hwork d => ?_, fun hr => ?_, fun hgated => absurd (hm ▸ hgated) hg⟩
  · obtain ⟨u, e'', hd, he⟩ := h.bound i d (src i ▸ hb)
    rw [ctx]
    split
    · next hdc =>
      rw [← hdc, hd] at ho
      obtain ⟨u', e₁, hx'⟩ := (Context.isOpen_iff x).1 ho
      refine ⟨u', e₁, hx', ?_⟩
      rw [hdc, hold] at hd
      cases hd
      rw [hx] at hx'
      cases hx'
      exact hsrc.trans he
    · exact ⟨u, e'', hd, he⟩
  · rw [ctx] at hd
    rw [src]
    split at hd
    · next hdc =>
      rw [hd] at ho
      obtain ⟨u', e₁, hopen⟩ := (Context.isOpen_iff _).1 ho.symm
      have hb := h.opened c u' e₁ hopen
      rw [hold] at hopen
      cases hopen
      rw [hx] at hd
      cases hd
      rw [hsrc, hb, hdc]
    · exact h.opened d u e'' hd
  · rw [ctx]
    split
    · rw [ho]; exact h.work (hw ▸ hwork) c
    · exact h.work (hw ▸ hwork) d
  · rw [hw]; exact h.run (hm ▸ hr)

/-- A context that is not OPEN becomes OPEN for a source that is not bound, and is bound to it (R7). -/
theorem bindings_of_open {i : SrcNum} {f : Bool} {u : Option Idle} {e : Epoch} (hold : (s.ctx c).isOpen = false)
    (hidle : s.work = .idle) (hfree : (s.source i).bound = none) (hx : x = .active (.opened u) e) (hsrc : e.source = i)
    (hs : t.sources = s.sources.set i ⟨some c, f⟩) : t.BindingsProper := by
  have ctx := State.ctx_of_set hc
  have src := State.source_of_set hs
  refine ⟨fun j d hb => ?_, fun d u' e' hd => ?_, fun hwork => absurd (hw.trans hidle) hwork, fun _ => hw.trans hidle,
    fun hgated => absurd (hm ▸ hgated) hg⟩
  · rw [src] at hb
    split at hb
    · next hj =>
      cases hb
      exact ⟨u, e, (ctx c).trans ((if_pos rfl).trans hx), hsrc.trans hj.symm⟩
    · obtain ⟨u', e', hd, he⟩ := h.bound j d hb
      have hne : d ≠ c := by
        rintro rfl
        rw [hd] at hold
        exact nomatch hold
      exact ⟨u', e', (ctx d).trans ((if_neg hne).trans hd), he⟩
  · rw [ctx] at hd
    split at hd
    · next hdc =>
      rw [hx] at hd
      cases hd
      rw [src, if_pos hsrc, hdc]
    · have hb := h.opened d u' e' hd
      rw [src, if_neg]
      · exact hb
      · intro hi
        rw [hi, hfree] at hb
        exact nomatch hb

end

/-! ### Updates of the engine queue -/

section
variable {s t : State} {c : CtxNum} {x : Context} (h : s.QueueProper) (hc : t.contexts = s.contexts.set c x)
  (hw : t.work = s.work) (hm : t.mode = s.mode)
include h hc hw hm

/-- The queue stands: a context is replaced by one that has a job when the context is queued. -/
theorem queue_of_set (hq : t.queue = s.queue) (hj : t.job = s.job) (hg : t.grant = s.grant)
    (hx : (∀ q ∈ s.queue, q.ctx ≠ c) ∨ x.hasJob = true) : t.QueueProper := by
  refine ⟨hq ▸ h.once, fun q hmem => ?_, fun j hjob => ?_, fun g d hgrant => ?_, fun hr => ?_, fun hgated => ?_⟩
  · rw [hq] at hmem
    rw [State.ctx_of_set hc]
    split
    · next hqc => exact hx.resolve_left fun hnone => hnone q hmem hqc
    · exact h.jobs q hmem
  · rw [hq]; exact h.head j (hj ▸ hjob)
  · rw [hq]; exact h.task g d (hg ▸ hgrant)
  · rw [hq]; exact h.reading (hw ▸ hr)
  · rw [hq]; exact h.gated (hm ▸ hgated)

/-- A context that is not queued joins the tail with a job (R94). -/
theorem queue_of_enqueue {z : Option SlotPos} (hq : t.queue = s.queue ++ [⟨c, z⟩]) (hj : t.job = s.job)
    (hg : t.grant = s.grant) (hnew : ∀ q ∈ s.queue, q.ctx ≠ c) (hx : x.hasJob = true)
    (hread : s.work.isReading ≠ true) (hgate : s.mode ≠ .gated) : t.QueueProper := by
  have head {d : CtxNum} (hd : s.queue.head?.map (·.ctx) = some d) : t.queue.head?.map (·.ctx) = some d := by
    obtain ⟨q, hhead, rfl⟩ := Option.map_eq_some_iff.1 hd
    rw [hq, List.head?_append, hhead]; rfl
  refine ⟨?_, fun q hmem => ?_, fun j hjob => head (h.head j (hj ▸ hjob)), fun g d hgrant ht => head (h.task g d (hg ▸ hgrant) ht),
    fun hr => absurd (hw ▸ hr) hread, fun hgated => absurd (hm ▸ hgated) hgate⟩
  · rw [hq, List.map_append, List.nodup_append]
    refine ⟨h.once, List.nodup_singleton _, fun d hd d' hd' => ?_⟩
    obtain ⟨q, hmem, rfl⟩ := List.mem_map.1 hd
    rw [List.mem_singleton.1 hd']
    exact hnew q hmem
  · rw [State.ctx_of_set hc]
    split
    · exact hx
    · next hne =>
      rw [hq, List.mem_append, List.mem_singleton] at hmem
      exact h.jobs q (hmem.resolve_right fun e => hne (by rw [e]))

/-- The head entry leaves the queue with no grant and no record of a job left (R99, R106). -/
theorem queue_of_drop (hq : t.queue = s.queue.tail) (hj : t.job = none) (hg : t.grant = none)
    (hhead : s.queue.head?.map (·.ctx) = some c) : t.QueueProper := by
  obtain ⟨q₀, hq₀, hctx⟩ := Option.map_eq_some_iff.1 hhead
  obtain ⟨rest, hs⟩ : ∃ rest, s.queue = q₀ :: rest := ⟨_, List.eq_cons_of_mem_head? hq₀⟩
  have hr : t.queue = rest := by rw [hq, hs]; rfl
  have hnodup : (c :: rest.map (·.ctx)).Nodup := by
    have honce := h.once
    rwa [hs, List.map_cons, hctx] at honce
  refine ⟨hr ▸ hnodup.of_cons, fun q hmem => ?_, fun j hjob => ?_, fun g d hgrant => ?_, fun hread => ?_, fun hgated => ?_⟩
  · rw [hr] at hmem
    rw [State.ctx_of_set hc, if_neg]
    · exact h.jobs q (by rw [hs]; exact List.mem_cons_of_mem _ hmem)
    · rintro rfl
      exact (List.nodup_cons.1 hnodup).1 (List.mem_map_of_mem hmem)
  · rw [hj] at hjob; exact nomatch hjob
  · rw [hg] at hgrant; exact nomatch hgrant
  · rw [hq, h.reading (hw ▸ hread)]; rfl
  · rw [hq, h.gated (hm ▸ hgated)]; rfl

end

/-! ### Updates of mode and work -/

/-- Mode and work change, and no table. -/
theorem of_mode {s t : State} (h : s.Lawful) (hc : t.contexts = s.contexts) (hs : t.sources = s.sources)
    (hq : t.queue = s.queue) (hj : t.job = s.job) (hg : t.grant = s.grant)
    (hw : t.work ≠ .idle → ∀ c, (s.ctx c).isOpen = false) (hrun : t.mode = .run → t.work = .idle)
    (hgated : t.mode = .gated → t.work = .idle ∧ (∀ c, s.ctx c = .free) ∧ s.queue = [])
    (hread : t.work.isReading = true → s.queue = []) : t.Lawful := by
  have ctx (c : CtxNum) : t.ctx c = s.ctx c := by unfold State.ctx; rw [hc]
  have src (i : SrcNum) : t.source i = s.source i := by unfold State.source; rw [hs]
  refine ⟨⟨fun i c => ?_, fun c u e => ?_, fun hwork c => ?_, hrun, fun hm => ⟨(hgated hm).1, fun c => ?_⟩⟩,
    ⟨hq ▸ h.queue.once, fun q hmem => ?_, fun j hjob => ?_, fun g c hgrant => ?_, fun hr => ?_, fun hm => ?_⟩⟩
  · rw [src, ctx]; exact h.bindings.bound i c
  · rw [src, ctx]; exact h.bindings.opened c u e
  · rw [ctx]; exact hw hwork c
  · rw [ctx]; exact (hgated hm).2.1 c
  · rw [ctx]; exact h.queue.jobs q (hq ▸ hmem)
  · rw [hq]; exact h.queue.head j (hj ▸ hjob)
  · rw [hq]; exact h.queue.task g c (hg ▸ hgrant)
  · rw [hq]; exact hread hr
  · rw [hq]; exact (hgated hm).2.2

/-- The work goes on, or ends in RUN or in FROZEN, and no table changes. -/
theorem of_work {s t : State} (h : s.Lawful) (hc : t.contexts = s.contexts) (hs : t.sources = s.sources)
    (hq : t.queue = s.queue) (hj : t.job = s.job) (hg : t.grant = s.grant)
    (hw : t.work ≠ .idle → s.work ≠ .idle) (hrun : t.mode = .run → t.work = .idle)
    (hgated : t.mode ≠ .gated) (hread : t.work.isReading = true → s.work.isReading = true) : t.Lawful :=
  h.of_mode hc hs hq hj hg (fun hwork => h.bindings.work (hw hwork)) hrun (fun hm => absurd hm hgated)
    fun hr => h.queue.reading (hread hr)

end State.Lawful

end Sys2Proof.Machine
end

section
/-! SUPPORT. The two laws across every command and every grant, and the statement. -/

namespace Sys2Proof.Machine

/-! ### The relation, across the elementary updates -/

/-- Where the two laws held they hold after. -/
structure LawKept (s t : State) : Prop where
  kept : s.Lawful → t.Lawful

/-- An update that leaves what the two laws speak of; of the grant it may change anything but the context of its job. -/
theorem State.Lawful.of_same {s t : State} (h : s.Lawful) (hc : t.contexts = s.contexts)
    (hb : ∀ i, (t.source i).bound = (s.source i).bound) (hw : t.work = s.work) (hm : t.mode = s.mode)
    (hq : t.queue = s.queue) (hj : t.job = s.job)
    (hg : ∀ g c, t.grant = some g → g.task.jobCtx = some c → ∃ g', s.grant = some g' ∧ g'.task.jobCtx = some c) :
    t.Lawful := by
  have ctx (c : CtxNum) : t.ctx c = s.ctx c := by unfold State.ctx; rw [hc]
  refine ⟨⟨fun i c => ?_, fun c u e => ?_, fun hwork c => ?_, fun hr => ?_, fun hgated => ?_⟩,
    ⟨hq ▸ h.queue.once, fun q hmem => ?_, fun j hjob => ?_, fun g c hgrant ht => ?_, fun hr => ?_, fun hgated => ?_⟩⟩
  · rw [hb, ctx]; exact h.bindings.bound i c
  · rw [hb, ctx]; exact h.bindings.opened c u e
  · rw [ctx]; exact h.bindings.work (hw ▸ hwork) c
  · rw [hw]; exact h.bindings.run (hm ▸ hr)
  · obtain ⟨hidle, hfree⟩ := h.bindings.gated (hm ▸ hgated)
    exact ⟨hw.trans hidle, fun c => (ctx c).trans (hfree c)⟩
  · rw [ctx]; exact h.queue.jobs q (hq ▸ hmem)
  · rw [hq]; exact h.queue.head j (hj ▸ hjob)
  · obtain ⟨g', hg', ht'⟩ := hg g c hgrant ht
    rw [hq]; exact h.queue.task g' c hg' ht'
  · rw [hq]; exact h.queue.reading (hw ▸ hr)
  · rw [hq]; exact h.queue.gated (hm ▸ hgated)

namespace LawKept

theorem of_eq {s t : State} (hc : t.contexts = s.contexts) (hs : t.sources = s.sources) (hw : t.work = s.work)
    (hm : t.mode = s.mode) (hq : t.queue = s.queue) (hj : t.job = s.job) (hg : t.grant = s.grant) : LawKept s t :=
  ⟨fun h => h.of_same hc (fun i => by unfold State.source; rw [hs]) hw hm hq hj fun g _ e ht => ⟨g, hg ▸ e, ht⟩⟩

theorem trans {s t u : State} (h : LawKept s t) (h' : LawKept t u) : LawKept s u := ⟨h'.kept ∘ h.kept⟩

/-- From a state that agrees with `s` in all that the laws speak of. -/
theorem after {s t u : State} (h : LawKept t u) (hc : t.contexts = s.contexts) (hs : t.sources = s.sources)
    (hw : t.work = s.work) (hm : t.mode = s.mode) (hq : t.queue = s.queue) (hj : t.job = s.job) (hg : t.grant = s.grant) :
    LawKept s u := trans (of_eq hc hs hw hm hq hj hg) h

variable (s : State)

theorem raise (k c i d n a) : LawKept s (s.raise k c i d n a) := by
  unfold State.raise
  split
  · split <;> exact of_eq rfl rfl rfl rfl rfl rfl rfl
  · exact of_eq rfl rfl rfl rfl rfl rfl rfl

section
variable {s} {c : CtxNum} {u : Option Idle} {e : Epoch} (hc : s.ctx c = .active (.opened u) e)
include hc

theorem freeEmpty : LawKept s (s.freeEmpty c e) := by
  refine ⟨fun h => ?_⟩
  have hgate := h.mode_ne_gated (c := c) (by rw [hc]; nofun)
  exact ⟨State.Lawful.bindings_of_leave h.bindings rfl rfl rfl hgate hc rfl rfl,
    State.Lawful.queue_of_set h.queue rfl rfl rfl rfl rfl rfl (.inl (h.ctx_ne_of_hasJob (by rw [hc]; rfl)))⟩

theorem leaveOpen {p : Phase} (hopen : (Context.active p e).isOpen = false) (hjob : (Context.active p e).hasJob = true) :
    LawKept s (s.leaveOpen c e p) := by
  refine ⟨fun h => ?_⟩
  have hgate := h.mode_ne_gated (c := c) (by rw [hc]; nofun)
  have hidle := h.work_idle_of_open (c := c) (by rw [hc]; rfl)
  exact ⟨State.Lawful.bindings_of_leave h.bindings rfl rfl rfl hgate hc rfl hopen,
    State.Lawful.queue_of_enqueue h.queue rfl rfl rfl rfl rfl rfl (h.ctx_ne_of_hasJob (by rw [hc]; rfl)) hjob
      (State.not_reading_of_idle hidle) hgate⟩

end

theorem takeRollback (c : CtxNum) (k : Cause) : LawKept s (s.takeRollback c k) := by
  unfold State.takeRollback
  split
  · next hc =>
    split
    · exact trans (freeEmpty hc) (raise ..)
    · exact leaveOpen hc rfl rfl
  · exact of_eq rfl rfl rfl rfl rfl rfl rfl

theorem takeCommit (c : CtxNum) : LawKept s (s.takeCommit c) := by
  unfold State.takeCommit
  split
  · next hc =>
    split
    · exact trans (freeEmpty hc) (raise ..)
    · exact leaveOpen hc rfl rfl
  · exact of_eq rfl rfl rfl rfl rfl rfl rfl

theorem quiet {s t : State} (e : s.tables = t.tables) : LawKept s t := by
  have hsources : s.sources.map (fun x => (⟨x.bound, false⟩ : Source)) = t.sources.map fun x => ⟨x.bound, false⟩ :=
    congrArg State.sources e
  have hbound (i : SrcNum) : (t.source i).bound = (s.source i).bound := by
    have hi := congrArg (fun v : Vector Source 4 => v[i].bound) hsources
    simp only [Fin.getElem_fin, Vector.getElem_map] at hi
    exact hi.symm
  exact ⟨fun h => h.of_same (congrArg State.contexts e).symm hbound (congrArg State.work e).symm
    (congrArg State.mode e).symm (congrArg State.queue e).symm (congrArg State.job e).symm
    fun g _ hg ht => ⟨g, (congrArg State.grant e).trans hg, ht⟩⟩

theorem keeps : Keeps LawKept where
  trans := trans
  quiet := quiet
  raise := raise
  takeRollback := takeRollback

/-- A context is replaced by one of the same kind with the same source, and no table but the contexts changes. -/
theorem of_alike {s t : State} {c : CtxNum} {p p' : Phase} {e e' : Epoch} (hold : s.ctx c = .active p e)
    (hc : t.contexts = s.contexts.set c (.active p' e')) (hs : t.sources = s.sources) (hw : t.work = s.work)
    (hm : t.mode = s.mode) (hq : t.queue = s.queue) (hj : t.job = s.job) (hg : t.grant = s.grant)
    (hsrc : e'.source = e.source) (ho : (Context.active p' e').isOpen = (Context.active p e).isOpen)
    (hjob : (Context.active p' e').hasJob = (Context.active p e).hasJob) : LawKept s t := by
  refine ⟨fun h => ?_⟩
  have hgate := h.mode_ne_gated (c := c) (by rw [hold]; nofun)
  refine ⟨State.Lawful.bindings_of_alike h.bindings hc hw hm hgate hold rfl hs hsrc (ho.trans (by rw [hold])),
    State.Lawful.queue_of_set h.queue hc hw hm hq hj hg ?_⟩
  cases hx : (Context.active p e).hasJob with
  | true => exact .inr (hjob.trans hx)
  | false => exact .inl (h.ctx_ne_of_hasJob (by rw [hold, hx]))

theorem retime {s : State} {c : CtxNum} {u : Option Idle} {e : Epoch} (u' : Option Idle)
    (hc : s.ctx c = .active (.opened u) e) : LawKept s (s.setCtx c (.active (.opened u') e)) :=
  of_alike hc rfl rfl rfl rfl rfl rfl rfl rfl rfl rfl

theorem openWith {s : State} {c : CtxNum} {i : SrcNum} {n : Nat} {rest : List Nat} (hm : s.mode = .run)
    (hb : (s.source i).bound = none) (hc : s.ctx c = .free) : LawKept s (s.openWith c i n rest) := by
  refine trans ⟨fun h => ?_⟩ (keeps.lowWater ..)
  have hgate : s.mode ≠ .gated := by rw [hm]; nofun
  exact ⟨State.Lawful.bindings_of_open (c := c) h.bindings rfl rfl rfl hgate (by rw [hc]; rfl) (h.bindings.run hm) hb
      rfl rfl rfl,
    State.Lawful.queue_of_set (c := c) h.queue rfl rfl rfl rfl rfl rfl (.inl (h.ctx_ne_of_hasJob (by rw [hc]; rfl)))⟩

theorem requeue {s : State} {c : CtxNum} {k : Cause} {f : FaultInfo} {e : Epoch} {p : Phase} (z : Option SlotPos)
    (hm : s.mode = .run) (hc : s.ctx c = .active (.faulted k f) e) (hp : p = .rollingBack k ∨ p = .discarding) :
    LawKept s ((s.setCtx c (.active p e)).enqueue c z) := by
  refine ⟨fun h => ?_⟩
  have hgate : s.mode ≠ .gated := by rw [hm]; nofun
  have hidle := h.bindings.run hm
  have hopen : (Context.active p e).isOpen = false := by rcases hp with rfl | rfl <;> rfl
  have hjob : (Context.active p e).hasJob = true := by rcases hp with rfl | rfl <;> rfl
  exact ⟨State.Lawful.bindings_of_closed h.bindings rfl rfl rfl hgate rfl (by rw [hc]; rfl) hopen,
    State.Lawful.queue_of_enqueue h.queue rfl rfl rfl rfl rfl rfl (h.ctx_ne_of_hasJob (by rw [hc]; rfl)) hjob
      (State.not_reading_of_idle hidle) hgate⟩

/-- A change of the grant in progress that leaves the context of its job. -/
theorem regrant (f : Grant → Grant) (hf : ∀ g, (f g).task.jobCtx = g.task.jobCtx) :
    LawKept s { s with grant := s.grant.map f } := by
  refine ⟨fun h => h.of_same rfl (fun _ => rfl) rfl rfl rfl rfl fun g c hg ht => ?_⟩
  obtain ⟨g', hg', rfl⟩ := Option.map_eq_some_iff.1 hg
  exact ⟨g', hg', (hf g').symm.trans ht⟩

theorem freePort : LawKept s s.freePort :=
  ⟨fun h => h.of_same rfl (fun _ => rfl) rfl rfl rfl rfl fun _ _ hg => nomatch hg⟩

theorem keepsCommands : KeepsCommands LawKept where
  toKeeps := keeps
  takeCommit := takeCommit
  retime := retime
  openWith hm hb hc _ := openWith hm hb hc
  requeue := requeue
  countShort _ := of_eq rfl rfl rfl rfl rfl rfl rfl
  popEvent _ := of_eq rfl rfl rfl rfl rfl rfl rfl
  dropArming s i := by
    refine regrant s _ fun g => ?_
    split
    · next ht =>
      rw [ht]
      split
      · rfl
      · exact congrArg Task.jobCtx ht
    · rfl

theorem insertClaim (a : Addr) (c : CtxNum) : LawKept s (s.insertClaim a c) := by
  unfold State.insertClaim
  split <;> exact of_eq rfl rfl rfl rfl rfl rfl rfl

theorem mapEpoch (c : CtxNum) (f : Epoch → Epoch) (hf : ∀ e, (f e).source = e.source) : LawKept s (s.mapEpoch c f) := by
  unfold State.mapEpoch
  split
  · exact of_eq rfl rfl rfl rfl rfl rfl rfl
  · next p e hc => exact of_alike hc rfl rfl rfl rfl rfl rfl rfl (hf e) (by cases p <;> rfl) (by cases p <;> rfl)

theorem extendChain (c : CtxNum) (e : Epoch) : LawKept s (s.extendChain c e) := by
  unfold State.extendChain
  split
  · exact of_eq rfl rfl rfl rfl rfl rfl rfl
  · refine trans ?_ (keeps.lowWater ..)
    exact after (mapEpoch _ c _ fun _ => rfl) rfl rfl rfl rfl rfl rfl rfl

end LawKept

/-! ### The head job and its step -/

namespace State.Lawful

variable {s : State} (h : s.Lawful)
include h

theorem head_of_headJob {j : Job} (hj : s.headJob = some j) : s.queue.head?.map (·.ctx) = some j.ctx := by
  unfold State.headJob at hj
  split at hj
  · next j' hjob => cases hj; exact h.queue.head _ hjob
  · split at hj
    · exact nomatch hj
    · next hq =>
      split at hj
      · cases hj; rw [hq]; rfl
      · exact nomatch hj


end State.Lawful

theorem State.jobTask_jobCtx {s : State} {j : Job} {t : Task} (h : s.jobTask j = some t) : t.jobCtx = some j.ctx := by
  unfold State.jobTask at h
  split at h
  · exact nomatch h
  · split at h
    · exact nomatch h
    · split at h
      · cases h; rfl
      · cases h; rfl
      · split at h
        · cases h; rfl
        · cases h; rfl
        · cases h; rfl
        · exact nomatch h

/-- A due step of the format or recovery work is no job's; one of the head job works for the head job's context, and
its start makes the engine's record (R95). -/
theorem State.startTask_cases {s : State} {t : Task} (h : s.dueTask = some t) :
    (t.jobCtx = none ∧ s.startTask t = s.startGrant t (s.taskPlan t)) ∨
    (∃ j, s.headJob = some j ∧ t.jobCtx = some j.ctx ∧
      s.startTask t = State.startGrant { s with job := some j } t (s.taskPlan t)) := by
  have job (hdue : s.headJob.bind s.jobTask = some t)
      (hstart : s.startTask t = State.startGrant { s with job := s.headJob } t (s.taskPlan t)) :
      ∃ j, s.headJob = some j ∧ t.jobCtx = some j.ctx ∧
        s.startTask t = State.startGrant { s with job := some j } t (s.taskPlan t) := by
    obtain ⟨j, hj, ht⟩ := Option.bind_eq_some_iff.1 hdue
    exact ⟨j, hj, State.jobTask_jobCtx ht, hj ▸ hstart⟩
  unfold State.dueTask at h
  unfold State.startTask at job ⊢
  split at h
  case h_7 hw => rw [hw] at job ⊢; exact .inr (job h rfl)
  case h_8 hw => rw [hw] at job ⊢; exact .inr (job h rfl)
  case h_5 => exact nomatch h
  all_goals
    next hw =>
    cases h
    rw [hw]
    exact .inl ⟨rfl, rfl⟩

namespace LawKept

variable (s : State)

theorem startTask {t : Task} (ht : s.dueTask = some t) : LawKept s (s.startTask t) := by
  rcases State.startTask_cases ht with ⟨hnone, e⟩ | ⟨j, hj, hctx, e⟩
  · rw [e]
    refine ⟨fun h => h.of_same rfl (fun _ => rfl) rfl rfl rfl rfl fun g c hg htask => ?_⟩
    cases hg
    rw [hnone] at htask
    exact nomatch htask
  · rw [e]
    refine ⟨fun h => ?_⟩
    have hhead := h.head_of_headJob hj
    refine ⟨⟨h.bindings.bound, h.bindings.opened, h.bindings.work, h.bindings.run, h.bindings.gated⟩,
      ⟨h.queue.once, h.queue.jobs, fun j' hj' => ?_, fun g c hg htask => ?_, h.queue.reading, h.queue.gated⟩⟩
    · cases hj'; exact hhead
    · cases hg
      exact hhead.trans (hctx.symm.trans htask)

end LawKept

end Sys2Proof.Machine
end

section
/-! SUPPORT. The two laws across the ends of engine steps and the commands that set the part up, and the statement. -/

namespace Sys2Proof.Machine

theorem State.work_ne_idle_of_reading {s : State} (hr : s.work.isReading = true) : s.work ≠ .idle :=
  fun hw => State.not_reading_of_idle hw hr

namespace State.Lawful

/-! ### The ends of job steps -/

theorem completionEvent {s : State} (h : s.Lawful) (c : CtxNum) (p : Phase) (e : Epoch) :
    (s.completionEvent c p e).Lawful := by
  unfold State.completionEvent
  split
  · exact (LawKept.raise ..).kept h
  · exact (LawKept.raise ..).kept h
  · exact (LawKept.raise ..).kept h
  · exact h

section
variable {s : State} {c : CtxNum} (h : s.Lawful) (hhead : s.queue.head?.map (·.ctx) = some c)
include h

theorem freed : s.freePort.Lawful := (LawKept.freePort s).kept h

include hhead

/-- The engine's record is of the head entry's context. -/
theorem setPhase (p : JobPhase) : (s.setPhase c p).Lawful := by
  refine ⟨⟨h.bindings.bound, h.bindings.opened, h.bindings.work, h.bindings.run, h.bindings.gated⟩,
    ⟨h.queue.once, h.queue.jobs, fun j hj => ?_, h.queue.task, h.queue.reading, h.queue.gated⟩⟩
  cases hj
  exact hhead

theorem finishReleasingMarker : (s.finishReleasingMarker c).Lawful :=
  have released : LawKept (s.freePort.setPhase c .freeing) ((s.freePort.setPhase c .freeing).releaseAll c) :=
    .of_eq rfl rfl rfl rfl rfl rfl rfl
  (released.trans (LawKept.keeps.deliver ..)).kept (h.freed.setPhase hhead .freeing)

theorem not_open_of_head : (s.ctx c).isOpen = false := by
  have hjob := h.hasJob_of_head hhead
  refine Context.isOpen_false _ fun t e hopen => ?_
  rw [hopen] at hjob
  exact nomatch hjob

/-- The head entry leaves with its context replaced by one that is not OPEN, once the port is free. -/
theorem of_drop {t : State} {x : Context} (hx : x.isOpen = false) (hc : t.contexts = s.contexts.set c x)
    (hs : t.sources = s.sources) (hw : t.work = s.work) (hm : t.mode = s.mode) (hq : t.queue = s.queue.tail)
    (hj : t.job = none) (hg : t.grant = none) : t.Lawful :=
  ⟨bindings_of_closed h.bindings hc hw hm (h.mode_ne_gated_of_head hhead) hs (h.not_open_of_head hhead) hx,
    queue_of_drop h.queue hc hw hm hq hj hg hhead⟩

theorem faultJob (z : SlotPos) (k : FaultKind) : (s.freePort.faultJob c z k).Lawful := by
  unfold State.faultJob
  split
  · refine (LawKept.raise ..).kept (h.of_drop hhead ?_ rfl rfl rfl rfl rfl rfl rfl)
    rfl
  · refine h.of_drop hhead (h.not_open_of_head hhead) ?_ rfl rfl rfl rfl rfl rfl
    exact (Vector.set_getElem_self c.isLt).symm

theorem finishRestore (z : SlotPos) (f : Judged) (o : Bool) (l : List GuardHit) :
    (s.finishRestore c z f o l).Lawful := by
  unfold State.finishRestore
  dsimp only
  have phased := h.freed.setPhase hhead (phaseAfter ((s.ctx c).epoch.elim [] (·.chain)) z)
  split
  · exact h.faultJob hhead ..
  · exact phased
  · exact (LawKept.trans (LawKept.keeps.reportHits ..) (LawKept.keeps.deliver ..)).kept phased

end

section
variable {s : State} (h : s.Lawful)
include h

theorem mode_of_work (hw : s.work ≠ .idle) : s.mode ≠ .run ∧ s.mode ≠ .gated :=
  ⟨fun hm => hw (h.bindings.run hm), fun hm => hw (h.bindings.gated hm).1⟩

theorem tallyEnd (c : CtxNum) : (s.tallyEnd c).Lawful := by
  unfold State.tallyEnd
  split
  · next r hw =>
    obtain ⟨hrun, hgate⟩ := h.mode_of_work (by rw [hw]; nofun)
    exact h.of_work rfl rfl rfl rfl rfl (fun _ => by rw [hw]; nofun) (fun hm => absurd hm hrun) hgate
      Bool.noConfusion
  · exact h

theorem finishFreeing {c : CtxNum} (hhead : s.queue.head?.map (·.ctx) = some c) : (s.finishFreeing c).Lawful := by
  unfold State.finishFreeing
  split
  · exact h.freed
  · next p e hc =>
    split
    · exact h.freed
    · next x rest _ =>
      refine (LawKept.keeps.deliver ..).kept ?_
      split
      · have dropped : ((s.freePort.returnSegs [x.seg]).dropHead.setCtx c .free).Lawful :=
          h.of_drop hhead (x := .free) rfl rfl rfl rfl rfl rfl rfl rfl
        exact (completionEvent dropped c p e).tallyEnd c
      · have shorter : LawKept s.freePort ((s.freePort.returnSegs [x.seg]).setCtx c (.active p { e with chain := rest })) :=
          .of_alike hc rfl rfl rfl rfl rfl rfl rfl rfl (by cases p <;> rfl) (by cases p <;> rfl)
        exact (shorter.kept h.freed).setPhase hhead .freeing

/-! ### The end of replay, and the ends of the recovery steps -/

/-- The work ends in RUN (R143, R152). -/
theorem of_done {t : State} (hc : t.contexts = s.contexts) (hs : t.sources = s.sources) (hq : t.queue = s.queue)
    (hj : t.job = s.job) (hg : t.grant = s.grant) (hw : t.work = .idle) (hm : t.mode = .run) : t.Lawful :=
  h.of_work hc hs hq hj hg (fun hne => absurd hw hne) (fun _ => hw) (by rw [hm]; nofun)
    fun hr => absurd hr (State.not_reading_of_idle hw)

/-- The work in force goes on as other work. -/
theorem of_next {t : State} (hwork : s.work ≠ .idle) (hc : t.contexts = s.contexts) (hs : t.sources = s.sources)
    (hq : t.queue = s.queue) (hj : t.job = s.job) (hg : t.grant = s.grant) (hm : t.mode = s.mode)
    (hr : t.work.isReading = true → s.work.isReading = true) : t.Lawful :=
  have ⟨hrun, hgate⟩ := h.mode_of_work hwork
  h.of_work hc hs hq hj hg (fun _ => hwork) (fun e => absurd (hm ▸ e) hrun) (fun e => hgate (hm ▸ e)) hr

theorem recoveryDone (r : Recovery) : (s.recoveryDone r).Lawful :=
  (LawKept.raise ..).kept (h.of_done (t := { s with mode := .run, work := .idle }) rfl rfl rfl rfl rfl rfl rfl)

theorem afterEngine : s.afterEngine.Lawful := by
  unfold State.afterEngine
  split
  · next r hw =>
    split
    · have counting : LawKept s { s with epochSeq := nextSeq r.found } := .of_eq rfl rfl rfl rfl rfl rfl rfl
      have counted := counting.kept h
      unfold State.finishReplay
      dsimp only
      split
      · exact counted.recoveryDone r
      · exact h.of_next (by rw [hw]; nofun) rfl rfl rfl rfl rfl rfl Bool.noConfusion
    · exact h
  · exact h

end

section
variable {s : State} (h : s.Lawful) (hr : s.work.isReading = true)
include h hr

/-- While the journal is read nothing is queued, and a context that is set OPEN by nothing stays not OPEN (R145). -/
theorem setClosed (c : CtxNum) {x : Context} (hx : x.isOpen = false) : (s.setCtx c x).Lawful := by
  have hwork := State.work_ne_idle_of_reading hr
  have hempty := h.queue.reading hr
  exact ⟨bindings_of_closed h.bindings rfl rfl rfl (h.mode_of_work hwork).2 rfl (h.bindings.work hwork c) hx,
    queue_of_set h.queue rfl rfl rfl rfl rfl rfl (.inl fun q hq => by rw [hempty] at hq; exact nomatch hq)⟩

theorem faultChain (c : CtxNum) (g : List LiveSeg) : (s.faultChain c g).Lawful := by
  unfold State.faultChain
  split
  · exact h
  · exact (LawKept.raise ..).kept (h.setClosed hr c rfl)

theorem faultShort (c : CtxNum) (n k : Nat) (e : Epoch) : (s.faultShort c n k e).Lawful :=
  (LawKept.raise ..).kept (h.setClosed hr c rfl)

/-- The jobs that the judgement queues are those of contexts with a job, each once (R150). -/
theorem queueJobs (r : Recovery) : (s.queueJobs r).Lawful := by
  have hwork := State.work_ne_idle_of_reading hr
  obtain ⟨hrun, hgate⟩ := h.mode_of_work hwork
  have hempty := h.queue.reading hr
  have entry {c : CtxNum} {q : QueueEntry} (hq : s.jobEntry c = some q) : q.ctx = c ∧ (s.ctx c).hasJob = true := by
    unfold State.jobEntry at hq
    split at hq
    · next hc => cases hq; exact ⟨rfl, by rw [hc]; rfl⟩
    · next hc => cases hq; exact ⟨rfl, by rw [hc]; rfl⟩
    · next hc => cases hq; exact ⟨rfl, by rw [hc]; rfl⟩
    · exact nomatch hq
  have hqueue : s.queue ++ eight.filterMap s.jobEntry = eight.filterMap s.jobEntry := by rw [hempty]; rfl
  have once : ((eight.filterMap s.jobEntry).map (·.ctx)).Nodup := by
    rw [List.Nodup, List.pairwise_map, List.pairwise_filterMap]
    refine List.Pairwise.imp (fun hne q hq q' hq' => ?_) eight_nodup
    rw [(entry hq).1, (entry hq').1]
    exact hne
  unfold State.queueJobs
  refine afterEngine ⟨⟨h.bindings.bound, h.bindings.opened, fun _ => h.bindings.work hwork, fun hm => absurd hm hrun,
    fun hm => absurd hm hgate⟩, ⟨?_, fun q hq => ?_, fun j hj => ?_, fun g c hg ht => ?_, Bool.noConfusion,
    fun hm => absurd hm hgate⟩⟩
  · change ((s.queue ++ eight.filterMap s.jobEntry).map (·.ctx)).Nodup
    rw [hqueue]
    exact once
  · obtain ⟨c, -, hc⟩ := List.mem_filterMap.1 (hqueue ▸ hq)
    obtain ⟨rfl, hjob⟩ := entry hc
    exact hjob
  · have hhead := h.queue.head j hj
    rw [hempty] at hhead
    exact nomatch hhead
  · have hhead := h.queue.task g c hg ht
    rw [hempty] at hhead
    exact nomatch hhead

theorem nextChain (r : Recovery) : (s.nextChain r).Lawful := by
  unfold State.nextChain
  dsimp only
  split
  · exact h.queueJobs hr _
  · exact h.of_next (State.work_ne_idle_of_reading hr) rfl rfl rfl rfl rfl rfl fun _ => hr

theorem surveyEnd (found : List LiveSeg) : (s.surveyEnd found).Lawful := by
  unfold State.surveyEnd
  dsimp only
  generalize (eight.filter fun c => !(groupOf found c).isEmpty && !isConsistent (groupOf found c)) = bad
  have faulted (l : List CtxNum) (t : State) (ht : t.Lawful) (htr : t.work.isReading = true) :
      (l.foldl (fun t c => t.faultChain c (groupOf found c)) t).Lawful ∧
        (l.foldl (fun t c => t.faultChain c (groupOf found c)) t).work.isReading = true := by
    induction l generalizing t with
    | nil => exact ⟨ht, htr⟩
    | cons c l ih =>
      exact ih _ (ht.faultChain htr c _) (by rw [State.work_of_fixed (t.faultChain_fixed c (groupOf found c))]; exact htr)
  have pooling : LawKept s { s with pool := (List.range s.nseg).filter fun n => !found.any (fun x => x.seg == n) } :=
    .of_eq rfl rfl rfl rfl rfl rfl rfl
  obtain ⟨hlaw, hread⟩ := faulted bad _ (pooling.kept h) hr
  split
  · exact hlaw.queueJobs hread _
  · exact hlaw.of_next (State.work_ne_idle_of_reading hread) rfl rfl rfl rfl rfl rfl fun _ => hread

end

section
variable {s : State} (h : s.Lawful)
include h

theorem finishFormat : s.finishFormat.Lawful := by
  unfold State.finishFormat
  dsimp only
  split
  · next n hw =>
    split
    · exact h.freed.of_next (by rw [State.freePort_work, hw]; nofun) rfl rfl rfl rfl rfl rfl
        fun _ => by rw [State.freePort_work, hw]; rfl
    · exact (LawKept.raise ..).kept (h.freed.of_done rfl rfl rfl rfl rfl rfl rfl)
  · exact h.freed

theorem finishSurvey : s.finishSurvey.Lawful := by
  unfold State.finishSurvey
  dsimp only
  split
  · next n found hw =>
    have hr : s.freePort.work.isReading = true := by rw [State.freePort_work, hw]; rfl
    split
    · exact h.freed.of_next (State.work_ne_idle_of_reading hr) rfl rfl rfl rfl rfl rfl fun _ => hr
    · exact h.freed.surveyEnd hr _
  · exact h.freed

theorem finishJudgeFinal : s.finishJudgeFinal.Lawful := by
  unfold State.finishJudgeFinal
  dsimp only
  split
  · next r hw =>
    have hr : s.freePort.work.isReading = true := by rw [State.freePort_work, hw]; rfl
    have chained (c : CtxNum) (g : List LiveSeg) : (s.freePort.faultChain c g).work.isReading = true := by
      rw [State.work_of_fixed (State.faultChain_fixed ..)]; exact hr
    split
    · exact h.freed.queueJobs hr _
    · next c _ _ =>
      split
      · split
        · refine (h.freed.setClosed hr c ?_).nextChain hr _
          unfold endedContext
          dsimp only
          split
          · rfl
          · cases discardFlag _ <;> rfl
        · exact (h.freed.faultChain hr ..).nextChain (chained ..) _
        · split
          · exact (h.freed.faultChain hr ..).nextChain (chained ..) _
          · split
            · exact (h.freed.setClosed hr c rfl).nextChain hr _
            · exact h.freed.of_next (State.work_ne_idle_of_reading hr) rfl rfl rfl rfl rfl rfl fun _ => hr
      · exact h.freed.nextChain hr _
  · exact h.freed

theorem finishJudgeSegment : s.finishJudgeSegment.Lawful := by
  unfold State.finishJudgeSegment
  dsimp only
  split
  · next r q hw =>
    have hr : s.freePort.work.isReading = true := by rw [State.freePort_work, hw]; rfl
    split
    · next c _ y rest _ _ =>
      split
      · exact h.freed.nextChain hr _
      · split
        · refine (h.freed.faultShort hr ..).nextChain ?_ _
          rw [State.work_of_fixed (State.faultShort_fixed ..)]; exact hr
        · refine (h.freed.faultChain hr ..).nextChain ?_ _
          rw [State.work_of_fixed (State.faultChain_fixed ..)]; exact hr
        · split
          · exact (h.freed.setClosed hr c rfl).nextChain hr _
          · exact h.freed.of_next (State.work_ne_idle_of_reading hr) rfl rfl rfl rfl rfl rfl fun _ => hr
    · exact h.freed.nextChain hr _
  · exact h.freed

end

end State.Lawful

namespace LawKept

theorem rebuildSlots (s : State) (c : CtxNum) (e : Identity) (n m k : Nat) : LawKept s (s.rebuildSlots c e n m k) := by
  induction m generalizing s k with
  | zero => exact of_eq rfl rfl rfl rfl rfl rfl rfl
  | succ m ih =>
    refine trans ?_ (ih (s.rebuildSlot c e n k) (k + 1))
    unfold State.rebuildSlot
    dsimp only
    split
    · exact insertClaim ..
    · exact of_eq rfl rfl rfl rfl rfl rfl rfl

end LawKept

theorem State.Lawful.finishRebuild {s : State} (h : s.Lawful) : s.finishRebuild.Lawful := by
  unfold State.finishRebuild
  dsimp only
  split
  · next r c x rest hw =>
    have claimed := (LawKept.rebuildSlots s.freePort c (s.rebuildIdentity r c x) x.seg 14 1).kept h.freed
    split
    · exact claimed.recoveryDone r
    · refine claimed.of_next ?_ rfl rfl rfl rfl rfl rfl Bool.noConfusion
      rw [State.work_of_fixed (State.rebuildSlots_fixed ..), State.freePort_work, hw]
      nofun
  · exact h.freed

/-- The end of a job's step finds the job at the head of the queue, so the laws hold after each end. -/
theorem State.Lawful.finish {s : State} (h : s.Lawful) {g : Grant} (hg : s.grant = some g)
    (he : g.task.isEngine = true) : (s.finish g).Lawful := by
  have head {c : CtxNum} (hc : g.task.jobCtx = some c) : s.queue.head?.map (·.ctx) = some c := h.queue.task g c hg hc
  cases ht : g.task with
  | forwardedRead | forwardedWrite | journalledWrite | armingRead => rw [ht] at he; exact nomatch he
  | commitMarker | discardMarker => rw [State.finish, ht]; exact h.finishReleasingMarker (head (by rw [ht]; rfl))
  | abortMarker => rw [State.finish, ht]; exact h.freed.setPhase (head (by rw [ht]; rfl)) .freeing
  | restore => rw [State.finish, ht]; exact (h.finishRestore (head (by rw [ht]; rfl)) ..).afterEngine
  | freeing => rw [State.finish, ht]; exact (h.finishFreeing (head (by rw [ht]; rfl))).afterEngine
  | formatStep => rw [State.finish, ht]; exact h.finishFormat
  | survey => rw [State.finish, ht]; exact h.finishSurvey
  | judgeFinal => rw [State.finish, ht]; exact h.finishJudgeFinal
  | judgeSegment => rw [State.finish, ht]; exact h.finishJudgeSegment
  | rebuild => rw [State.finish, ht]; exact h.finishRebuild

/-! ### Every step -/

namespace LawKept

theorem keepsGrants : KeepsGrants LawKept where
  toKeepsCommands := keepsCommands
  freePort := freePort
  startGrant s t _ ht := ⟨fun h => h.of_same rfl (fun _ => rfl) rfl rfl rfl rfl fun g c hg hc => by
    cases hg
    cases t with
    | forwardedRead | forwardedWrite | journalledWrite | armingRead => exact nomatch hc
    | _ => exact nomatch ht⟩
  regrant := regrant
  store _ _ _ _ := of_eq rfl rfl rfl rfl rfl rfl rfl
  insertClaim := insertClaim
  releaseClaim _ _ _ := of_eq rfl rfl rfl rfl rfl rfl rfl
  extendChain _ _ := extendChain ..
  mapEpoch s c f hf := mapEpoch s c f fun e => (hf e).1
  startTask ht := startTask _ ht
  finishEngine hg he := ⟨fun h => h.finish hg he⟩
  freeze s := ⟨fun h => h.of_mode rfl rfl rfl rfl rfl h.bindings.work (fun hm => nomatch hm) (fun hm => nomatch hm)
    h.queue.reading⟩

/-- In GATED nothing is in use, so format and recovery begin, and GATE ends, with the laws. -/
theorem exec_setsUp {c : Instr} (hc : setsUp c = true) (hr : c ≠ .reset) {s t : State} (e : exec c s = .next t) :
    LawKept s t := by
  cases c
  case setGeometry =>
    cases e
    refine keeps.frame s ?_
    (repeat' split) <;> exact of_eq rfl rfl rfl rfl rfl rfl rfl
  case format | recover =>
    cases e
    refine keeps.frame s ?_
    split
    · exact keeps.answer ..
    · next hm =>
      split
      · exact keeps.answer ..
      · refine trans ⟨fun h => ?_⟩ (keeps.arbitrate _)
        have hgated := not_not.1 hm
        obtain ⟨-, hfree⟩ := h.bindings.gated hgated
        exact h.of_mode rfl rfl rfl rfl rfl (fun _ c => by rw [hfree c]; rfl) (fun hrun => nomatch hrun)
          (fun hg => nomatch hg) fun _ => h.queue.gated hgated
  case gate =>
    cases e
    refine keeps.frame s ?_
    split
    · exact keeps.answer ..
    · next hm =>
      split
      · next hq =>
        refine ⟨fun h => ?_⟩
        obtain ⟨hfree, hempty⟩ := s.quiet_iff.1 hq
        have hidle := h.bindings.run (not_not.1 hm)
        exact h.of_mode rfl rfl rfl rfl rfl (fun hw => absurd hidle hw) (fun hrun => nomatch hrun)
          (fun _ => ⟨hidle, hfree, hempty⟩) fun _ => hempty
      · exact keeps.answer ..
  case reset => exact absurd rfl hr
  all_goals exact nomatch hc

end LawKept

/-- A state with every context FREE, no source bound and nothing queued, in GATED with no work, meets the laws. -/
theorem State.Lawful.of_blank {s : State} (hc : ∀ c, s.ctx c = .free) (hs : ∀ i, (s.source i).bound = none)
    (hw : s.work = .idle) (hq : s.queue = []) (hj : s.job = none) (hg : s.grant = none) : s.Lawful := by
  refine ⟨⟨fun i c hb => ?_, fun c t e he => ?_, fun hne => absurd hw hne, fun _ => hw, fun _ => ⟨hw, hc⟩⟩,
    ⟨hq ▸ List.nodup_nil, fun q hmem => ?_, fun j hjob => ?_, fun g c hgrant => ?_, fun _ => hq, fun _ => hq⟩⟩
  · rw [hs] at hb; exact nomatch hb
  · rw [hc] at he; exact nomatch he
  · rw [hq] at hmem; exact nomatch hmem
  · rw [hj] at hjob; exact nomatch hjob
  · rw [hg] at hgrant; exact nomatch hgrant

theorem State.reset_ctx (c : CtxNum) : State.reset.ctx c = .free := Vector.getElem_replicate c.isLt

theorem State.reset_source (i : SrcNum) : State.reset.source i = ⟨none, false⟩ := Vector.getElem_replicate i.isLt

theorem exec_lawKept (c : Instr) {s t : State} (e : exec c s = .next t) : LawKept s t := by
  by_cases hr : c = .reset
  · subst hr
    cases e
    exact ⟨fun _ => .of_blank State.reset_ctx (fun i => congrArg Source.bound (State.reset_source i)) rfl rfl rfl rfl⟩
  · cases hc : setsUp c with
    | true => exact LawKept.exec_setsUp hc hr e
    | false => exact LawKept.keepsGrants.exec hc e

/-- Settles O58: every elementary update keeps the two laws together, and so do the ends of engine steps, since a job's
grant is of the head entry's context. -/
theorem stepKeepsBindingsAndQueue : Obligations.StepKeepsBindingsAndQueue := by
  intro s t hb hq e
  suffices kept : LawKept s t from ⟨(kept.kept ⟨hb, hq⟩).bindings, (kept.kept ⟨hb, hq⟩).queue⟩
  unfold step at e
  split at e
  · cases e; exact LawKept.keepsCommands.tick s
  · next c rest _ =>
    exact LawKept.after (t := { s with pending := rest }) (exec_lawKept c e) rfl rfl rfl rfl rfl rfl rfl

/-- Settles O60: nothing is listed, claimed, bound or queued in the reset state. -/
theorem resetStateIsLawful : Obligations.ResetStateIsLawful := by
  have law : State.reset.Lawful :=
    .of_blank State.reset_ctx (fun i => congrArg Source.bound (State.reset_source i)) rfl rfl rfl rfl
  exact ⟨Memory.wf_nil, Nat.zero_le _, ⟨Nat.zero_le _, List.nodup_nil⟩, law.bindings, law.queue⟩

end Sys2Proof.Machine
end

section
/-! SUPPORT. The mode, the work and the short-frame count across every command, memory across every command but a grant, and the statements on short frames, on memory and on the mode. -/

namespace Sys2Proof.Machine

/-! ### The ends of grants -/

/-- The part of the state that only commands and memory writes change. -/
def State.footing (s : State) : State := { s.fixed with mode := .gated, work := .idle }

theorem State.setCtx_fixed (s : State) (c : CtxNum) (x : Context) : (s.setCtx c x).fixed = s.fixed := by
  unfold State.fixed; rfl

theorem State.setPhase_fixed (s : State) (c : CtxNum) (p : JobPhase) : (s.setPhase c p).fixed = s.fixed := by
  unfold State.fixed; rfl

/-- What the end of a grant leaves: memory and every setting, and of mode and work that the mode stands, or work in force
has ended in RUN, and that no work begins. -/
structure EndKept (s t : State) : Prop where
  footing : t.footing = s.footing
  mode : t.mode = s.mode ∨ s.work ≠ .idle ∧ s.mode ≠ .frozen ∧ t.mode = .run
  work : t.work ≠ .idle → s.work ≠ .idle

namespace EndKept

theorem of_fixed {s t : State} (h : t.fixed = s.fixed) : EndKept s t :=
  ⟨congrArg (fun u : State => { u with mode := .gated, work := .idle }) h, .inl (State.mode_of_fixed h),
    fun hw => State.work_of_fixed h ▸ hw⟩

/-- An update of work in force. -/
theorem of_working {s t : State} (hw : s.work ≠ .idle) (hm : t.mode = s.mode ∨ s.mode ≠ .frozen ∧ t.mode = .run)
    (hf : t.footing = s.footing) : EndKept s t :=
  ⟨hf, hm.imp_right fun hrun => ⟨hw, hrun⟩, fun _ => hw⟩

theorem trans {s t u : State} (h : EndKept s t) (h' : EndKept t u) : EndKept s u where
  footing := h'.footing.trans h.footing
  mode := by
    rcases h'.mode with hu | ⟨htw, htm, hu⟩
    · exact h.mode.imp hu.trans fun ⟨hw, hm, ht⟩ => ⟨hw, hm, hu.trans ht⟩
    · refine .inr ⟨h.work htw, ?_, hu⟩
      rcases h.mode with ht | ⟨-, hm, -⟩
      · exact ht ▸ htm
      · exact hm
  work hw := h.work (h'.work hw)

variable {s : State}

theorem mem {t : State} (h : EndKept s t) : t.mem = s.mem :=
  show t.footing.mem = s.footing.mem from congrArg State.mem h.footing

section
variable (hw : s.work ≠ .idle)
include hw

theorem recoveryDone (hm : s.mode ≠ .frozen) (r : Recovery) : EndKept s (s.recoveryDone r) := by
  have done : EndKept s { s with mode := .run, work := .idle } := of_working hw (.inr ⟨hm, rfl⟩) rfl
  exact done.trans (of_fixed (State.raise_fixed ..))

theorem finishReplay (hm : s.mode ≠ .frozen) (r : Recovery) : EndKept s (s.finishReplay r) := by
  have counted : EndKept s { s with epochSeq := nextSeq r.found } := of_fixed rfl
  unfold State.finishReplay
  dsimp only
  split
  · exact counted.trans (recoveryDone (s := { s with epochSeq := nextSeq r.found }) hw hm r)
  · exact of_working hw (.inl rfl) rfl

end

theorem afterEngine : EndKept s s.afterEngine := by
  unfold State.afterEngine
  split
  · next hw =>
    split
    · next hready =>
      refine finishReplay (by rw [hw]; nofun) ?_ _
      rw [beq_iff_eq.1 (Bool.and_eq_true_iff.1 hready).1]
      nofun
    · exact of_fixed rfl
  · exact of_fixed rfl

theorem tallyEnd (c : CtxNum) : EndKept s (s.tallyEnd c) := by
  unfold State.tallyEnd
  split
  · next hw => exact of_working (by rw [hw]; nofun) (.inl rfl) rfl
  · exact of_fixed rfl

theorem finishFreeing (c : CtxNum) : EndKept s (s.finishFreeing c) := by
  unfold State.finishFreeing
  split
  · exact of_fixed rfl
  · next p e _ =>
    split
    · exact of_fixed rfl
    · next x rest _ =>
      refine trans ?_ (of_fixed (State.deliver_fixed ..))
      split
      · have freed : EndKept s ((s.freePort.returnSegs [x.seg]).dropHead.setCtx c .free) := of_fixed rfl
        exact (freed.trans (of_fixed (State.completionEvent_fixed _ c p e))).trans (tallyEnd c)
      · have returned : EndKept s (s.freePort.returnSegs [x.seg]) := of_fixed rfl
        exact returned.trans (of_fixed ((State.setPhase_fixed ..).trans (State.setCtx_fixed ..)))

theorem finishFormat : EndKept s s.finishFormat := by
  unfold State.finishFormat
  dsimp only
  split
  · next n hw =>
    have working : s.work ≠ .idle := by rw [hw]; nofun
    split
    · exact of_working working (.inl rfl) rfl
    · next hlast =>
      have hm : s.mode ≠ .frozen := fun hm => hlast (by rw [hm]; exact Bool.or_true _)
      have done : EndKept s { s.freePort with
          pool := List.range s.freePort.nseg, epochSeq := 0#16, mode := .run, work := .idle } :=
        of_working working (.inr ⟨hm, rfl⟩) rfl
      exact done.trans (of_fixed (State.raise_fixed ..))
  · exact of_fixed rfl

section
variable (hw : s.work ≠ .idle)
include hw

theorem queueJobs (r : Recovery) : EndKept s (s.queueJobs r) := by
  have queued : EndKept s { s with queue := s.queue ++ eight.filterMap s.jobEntry, work := .replay r } :=
    of_working hw (.inl rfl) rfl
  exact queued.trans afterEngine

theorem nextChain (r : Recovery) : EndKept s (s.nextChain r) := by
  unfold State.nextChain
  dsimp only
  split
  · exact queueJobs hw _
  · exact of_working hw (.inl rfl) rfl

/-- The judgement goes on after an update that leaves the work in force. -/
theorem nextChain_after {t : State} (h : t.fixed = s.fixed) (r : Recovery) : EndKept s (t.nextChain r) :=
  (of_fixed h).trans (nextChain (State.work_of_fixed h ▸ hw) r)

theorem surveyEnd (found : List LiveSeg) : EndKept s (s.surveyEnd found) := by
  unfold State.surveyEnd
  dsimp only
  have pooled : EndKept s { s with pool := (List.range s.nseg).filter fun n => !found.any (fun x => x.seg == n) } :=
    of_fixed rfl
  refine pooled.trans ?_
  have faulted := State.foldl_fixed
    { s with pool := (List.range s.nseg).filter fun n => !found.any (fun x => x.seg == n) }
    (fun t c => t.faultChain c (groupOf found c)) (fun t c => t.faultChain_fixed c _)
    (eight.filter fun c => !(groupOf found c).isEmpty && !isConsistent (groupOf found c))
  have working := (State.work_of_fixed faulted).symm ▸ hw
  split
  · exact (of_fixed faulted).trans (queueJobs working _)
  · exact (of_fixed faulted).trans (of_working working (.inl rfl) rfl)

end

theorem finishSurvey : EndKept s s.finishSurvey := by
  unfold State.finishSurvey
  dsimp only
  split
  · next hw =>
    have working : s.freePort.work ≠ .idle := by rw [State.freePort_work, hw]; nofun
    refine trans (t := s.freePort) (of_fixed rfl) ?_
    split
    · exact of_working working (.inl rfl) rfl
    · exact surveyEnd working _
  · exact of_fixed rfl

theorem finishJudgeFinal : EndKept s s.finishJudgeFinal := by
  unfold State.finishJudgeFinal
  dsimp only
  split
  · next hw =>
    have working : s.freePort.work ≠ .idle := by rw [State.freePort_work, hw]; nofun
    refine trans (t := s.freePort) (of_fixed rfl) ?_
    split
    · exact queueJobs working _
    · split
      · split
        · exact nextChain_after working (State.setCtx_fixed ..) _
        · exact nextChain_after working (State.faultChain_fixed ..) _
        · split
          · exact nextChain_after working (State.faultChain_fixed ..) _
          · split
            · exact nextChain_after working (State.setCtx_fixed ..) _
            · exact of_working working (.inl rfl) rfl
      · exact nextChain working _
  · exact of_fixed rfl

theorem finishJudgeSegment : EndKept s s.finishJudgeSegment := by
  unfold State.finishJudgeSegment
  dsimp only
  split
  · next hw =>
    have working : s.freePort.work ≠ .idle := by rw [State.freePort_work, hw]; nofun
    refine trans (t := s.freePort) (of_fixed rfl) ?_
    split
    · split
      · exact nextChain working _
      · split
        · exact nextChain_after working (State.faultShort_fixed ..) _
        · exact nextChain_after working (State.faultChain_fixed ..) _
        · split
          · exact nextChain_after working (State.setCtx_fixed ..) _
          · exact of_working working (.inl rfl) rfl
    · exact nextChain working _
  · exact of_fixed rfl

theorem finishRebuild : EndKept s s.finishRebuild := by
  unfold State.finishRebuild
  dsimp only
  split
  · next r c x rest hw =>
    have claimed := State.rebuildSlots_fixed s.freePort c (s.rebuildIdentity r c x) x.seg 1 14
    have working : (s.freePort.rebuildSlots c (s.rebuildIdentity r c x) x.seg 14 1).work ≠ .idle := by
      rw [State.work_of_fixed claimed, State.freePort_work, hw]; nofun
    refine trans (t := s.freePort) (of_fixed rfl) ((of_fixed claimed).trans ?_)
    split
    · next hlast =>
      refine recoveryDone working ?_ r
      rw [State.mode_of_fixed claimed, State.freePort_mode, beq_iff_eq.1 (Bool.and_eq_true_iff.1 hlast).2]
      nofun
    · exact of_working working (.inl rfl) rfl
  · exact of_fixed rfl

theorem finish (g : Grant) : EndKept s (s.finish g) := by
  unfold State.finish
  split
  case h_1 => exact of_fixed rfl
  case h_2 => exact of_fixed (State.finishWrite_fixed ..)
  case h_3 => exact of_fixed (State.finishJournalled_fixed ..)
  case h_4 => exact of_fixed (State.finishArming_fixed ..)
  case h_5 | h_6 => exact of_fixed (State.finishReleasingMarker_fixed ..)
  case h_7 => exact of_fixed rfl
  case h_8 => exact (of_fixed (State.finishRestore_fixed ..)).trans afterEngine
  case h_9 => exact (finishFreeing _).trans afterEngine
  case h_10 => exact finishFormat
  case h_11 => exact finishSurvey
  case h_12 => exact finishJudgeFinal
  case h_13 => exact finishJudgeSegment
  case h_14 => exact finishRebuild

end EndKept

/-! ### The mode, the work and the short-frame count -/

/-- What every command but those that set the part up, and PFAIL#, leaves of mode and work; and no short frame is
forgotten. -/
structure ModeKept (s t : State) : Prop where
  mode : t.mode = s.mode ∨ s.work ≠ .idle ∧ s.mode ≠ .frozen ∧ t.mode = .run
  work : t.work ≠ .idle → s.work ≠ .idle
  short : s.shortFrames.toNat ≤ t.shortFrames.toNat

theorem saturate_eq (b : Byte) : saturate b = if b = 255#8 then 255#8 else b + 1#8 := by
  unfold saturate
  split
  · next h => exact h
  · rfl

theorem toNat_le_saturate (b : Byte) : b.toNat ≤ (saturate b).toNat := by
  unfold saturate
  split
  · next h => rw [h]
  · next h => bv_omega

namespace ModeKept

theorem of_end {s t : State} (h : EndKept s t) : ModeKept s t := by
  have hshort : t.shortFrames = s.shortFrames :=
    show t.footing.shortFrames = s.footing.shortFrames from congrArg State.shortFrames h.footing
  exact ⟨h.mode, h.work, hshort ▸ Nat.le_refl _⟩

theorem of_fixed {s t : State} (h : t.fixed = s.fixed) : ModeKept s t := of_end (.of_fixed h)

theorem of_eq {s t : State} (hm : t.mode = s.mode) (hw : t.work = s.work) (hs : t.shortFrames = s.shortFrames) :
    ModeKept s t := ⟨.inl hm, fun h => hw ▸ h, hs ▸ Nat.le_refl _⟩

theorem trans {s t u : State} (h : ModeKept s t) (h' : ModeKept t u) : ModeKept s u where
  mode := by
    rcases h'.mode with hu | ⟨htw, htm, hu⟩
    · exact h.mode.imp hu.trans fun ⟨hw, hm, ht⟩ => ⟨hw, hm, hu.trans ht⟩
    · refine .inr ⟨h.work htw, ?_, hu⟩
      rcases h.mode with ht | ⟨-, hm, -⟩
      · exact ht ▸ htm
      · exact hm
  work hw := h.work (h'.work hw)
  short := h.short.trans h'.short

theorem keeps : Keeps ModeKept where
  trans := trans
  quiet e := of_eq (congrArg State.mode e).symm (congrArg State.work e).symm (congrArg State.shortFrames e).symm
  raise _ _ _ _ _ _ _ := of_fixed (State.raise_fixed ..)
  takeRollback _ _ _ := of_fixed (State.takeRollback_fixed ..)

theorem keepsCommands : KeepsCommands ModeKept where
  toKeeps := keeps
  takeCommit _ _ := of_fixed (State.takeCommit_fixed ..)
  retime _ _ := of_eq rfl rfl rfl
  openWith _ _ _ _ := of_fixed (State.openWith_fixed ..)
  requeue _ _ _ _ := of_eq rfl rfl rfl
  countShort s := ⟨.inl rfl, id, toNat_le_saturate s.shortFrames⟩
  popEvent _ := of_eq rfl rfl rfl
  dropArming _ _ := of_eq rfl rfl rfl

theorem keepsRows : KeepsRows ModeKept where
  toKeepsCommands := keepsCommands
  freePort _ := of_eq rfl rfl rfl
  startGrant _ _ _ _ := of_eq rfl rfl rfl
  regrant _ _ _ := of_eq rfl rfl rfl
  store _ _ _ _ := of_eq rfl rfl rfl
  insertClaim _ _ _ := of_fixed (State.insertClaim_fixed ..)
  releaseClaim _ _ _ := of_eq rfl rfl rfl
  extendChain _ _ := of_fixed (State.extendChain_fixed ..)
  mapEpoch _ _ _ _ := of_fixed (State.mapEpoch_fixed ..)
  startTask _ := of_fixed (State.startTask_fixed ..)
  finishEngine _ _ := of_end (.finish _)

end ModeKept

/-- The commands whose effect on the mode is not `ModeKept`'s. -/
def shiftsMode : Instr → Bool
  | .setGeometry _ _ _ | .format | .recover | .gate | .pfailAsserted | .reset | .resetEnd => true
  | _ => false

theorem exec_modeKept {c : Instr} (hc : shiftsMode c = false) {s t : State} (e : exec c s = .next t) : ModeKept s t := by
  cases hg : c.isGrant with
  | true => exact ModeKept.keepsRows.exec_grant s hg e
  | false =>
    refine ModeKept.keepsCommands.exec_ordinary s ?_ e
    cases c
    case setGeometry | format | recover | gate | pfailAsserted | reset | resetEnd => exact nomatch hc
    all_goals exact congrArg not hg

/-! ### The commands that shift the mode -/

theorem State.frame_cases (s : State) (f : State → State) :
    s.inReset = true ∧ s.frame f = s ∨ s.inReset = false ∧ s.frame f = f s := by
  cases h : s.inReset with
  | true => exact .inl ⟨rfl, State.frame_reset h f⟩
  | false => exact .inr ⟨rfl, State.frame_eq h f⟩

/-! ### FORMAT, RECOVER and GATE -/

section
variable {s : State} (hr : s.inReset = false)
include hr

theorem exec_format_of_ne_gated (hm : s.mode ≠ .gated) : exec .format s = .next (s.replied [0x82#8]) :=
  congrArg _ (State.checkedFrame_of_refused hr hm _)

theorem exec_recover_of_ne_gated (hm : s.mode ≠ .gated) : exec .recover s = .next (s.replied [0x82#8]) :=
  congrArg _ (State.checkedFrame_of_refused hr hm _)

theorem State.checkedFrame_of_gated (hm : s.mode = .gated) (f : State → State) :
    (s.frame fun s => if s.mode ≠ .gated then s.answer .wrongMode else f s) = f s := by
  rw [State.frame_eq hr, if_neg (not_not.2 hm)]

theorem exec_format_of_unset (hm : s.mode = .gated) (hn : s.nseg = 0) :
    exec .format s = .next (s.replied [0x84#8]) :=
  congrArg _ ((State.checkedFrame_of_gated hr hm _).trans (by rw [if_pos hn]; rfl))

theorem exec_recover_of_unset (hm : s.mode = .gated) (hn : s.nseg = 0) :
    exec .recover s = .next (s.replied [0x84#8]) :=
  congrArg _ ((State.checkedFrame_of_gated hr hm _).trans (by rw [if_pos hn]; rfl))

theorem exec_format_taken (hm : s.mode = .gated) (hn : s.nseg ≠ 0) :
    exec .format s =
      .next ((State.replied { s with pool := [], mode := .formatting, work := .format 0 } [0x01#8]).arbitrate) :=
  congrArg _ ((State.checkedFrame_of_gated hr hm _).trans (by rw [if_neg hn]; rfl))

theorem exec_recover_taken (hm : s.mode = .gated) (hn : s.nseg ≠ 0) :
    exec .recover s =
      .next ((State.replied { s with pool := [], mode := .recovering, work := .survey 0 [] } [0x01#8]).arbitrate) :=
  congrArg _ ((State.checkedFrame_of_gated hr hm _).trans (by rw [if_neg hn]; rfl))

theorem exec_gate_of_ne_run (hm : s.mode ≠ .run) : exec .gate s = .next (s.replied [0x82#8]) :=
  congrArg _ (State.runFrame_of_ne hr hm _)

theorem exec_gate_of_busy (hm : s.mode = .run) (hq : s.quiet = false) : exec .gate s = .next (s.replied [0x83#8]) :=
  congrArg _ ((State.runFrame_of_run hr hm _).trans (by rw [hq]; rfl))

theorem exec_gate_taken (hm : s.mode = .run) (hq : s.quiet = true) :
    exec .gate s = .next ((s.inMode .gated).replied [0x00#8]) :=
  congrArg _ ((State.runFrame_of_run hr hm _).trans (by rw [hq]; rfl))

end

/-- Settles O13: the checks of FORMAT, RECOVER and GATE in their order, each with the state it leaves. -/
theorem modeCommandsAreTaken : Obligations.ModeCommandsAreTaken := by
  refine ⟨fun s hr => ⟨fun hm => ⟨exec_format_of_ne_gated hr hm, exec_recover_of_ne_gated hr hm⟩,
      fun hm hn => ⟨exec_format_of_unset hr hm hn, exec_recover_of_unset hr hm hn⟩,
      fun hm hn => ⟨exec_format_taken hr hm hn, exec_recover_taken hr hm hn⟩⟩,
    fun s hr => ⟨exec_gate_of_ne_run hr, fun hm hbusy => exec_gate_of_busy hr hm (s.quiet_false hbusy),
      fun hm hfree hq => exec_gate_taken hr hm (s.quiet_iff.2 ⟨hfree, hq⟩)⟩⟩

/-! ### Which commands shift the mode, and how -/

theorem exec_eq_of_reset {c : Instr} (f : State → State) (hf : ∀ s, exec c s = .next (s.frame f)) {s : State}
    (hr : s.inReset = true) : exec c s = .next s := (hf s).trans (congrArg _ (State.frame_reset hr f))

/-- The commands that set the part up, but for a reset, count no short frame and write no word; three of them shift the
mode when they are taken. -/
theorem exec_setsUp_kept {c : Instr} (hc : setsUp c = true) (hne : c ≠ .reset) {s t : State} (e : exec c s = .next t) :
    t.shortFrames = s.shortFrames ∧ t.mem = s.mem ∧
      (t.mode = s.mode ∨ (c = .format ∧ s.mode = .gated ∧ t.mode = .formatting) ∨
        (c = .recover ∧ s.mode = .gated ∧ t.mode = .recovering) ∨ (c = .gate ∧ s.mode = .run ∧ t.mode = .gated)) := by
  have shifted (m : Mode) (w : Work) :
      let u := State.arbitrate (State.replied { s with pool := [], mode := m, work := w } [0x01#8])
      u.shortFrames = s.shortFrames ∧ u.mem = s.mem ∧ u.mode = m :=
    ⟨by rw [State.arbitrate_eq]; rfl, State.arbitrate_mem _, State.arbitrate_mode _⟩
  cases hr : s.inReset with
  | true =>
    cases c
    case setGeometry | format | recover | gate =>
      cases (exec_eq_of_reset _ (fun _ => rfl) hr).symm.trans e
      exact ⟨rfl, rfl, .inl rfl⟩
    case reset => exact absurd rfl hne
    all_goals exact nomatch hc
  | false =>
    cases c
    case setGeometry =>
      cases e
      rw [State.frame_eq hr]
      (repeat' split) <;> exact ⟨rfl, rfl, .inl rfl⟩
    case format =>
      by_cases hm : s.mode = .gated
      · by_cases hn : s.nseg = 0
        · cases (exec_format_of_unset hr hm hn).symm.trans e; exact ⟨rfl, rfl, .inl rfl⟩
        · cases (exec_format_taken hr hm hn).symm.trans e
          obtain ⟨hshort, hmem, hmode⟩ := shifted .formatting (.format 0)
          exact ⟨hshort, hmem, .inr (.inl ⟨rfl, hm, hmode⟩)⟩
      · cases (exec_format_of_ne_gated hr hm).symm.trans e; exact ⟨rfl, rfl, .inl rfl⟩
    case recover =>
      by_cases hm : s.mode = .gated
      · by_cases hn : s.nseg = 0
        · cases (exec_recover_of_unset hr hm hn).symm.trans e; exact ⟨rfl, rfl, .inl rfl⟩
        · cases (exec_recover_taken hr hm hn).symm.trans e
          obtain ⟨hshort, hmem, hmode⟩ := shifted .recovering (.survey 0 [])
          exact ⟨hshort, hmem, .inr (.inr (.inl ⟨rfl, hm, hmode⟩))⟩
      · cases (exec_recover_of_ne_gated hr hm).symm.trans e; exact ⟨rfl, rfl, .inl rfl⟩
    case gate =>
      by_cases hm : s.mode = .run
      · cases hq : s.quiet with
        | false => cases (exec_gate_of_busy hr hm hq).symm.trans e; exact ⟨rfl, rfl, .inl rfl⟩
        | true =>
          cases (exec_gate_taken hr hm hq).symm.trans e
          exact ⟨rfl, rfl, .inr (.inr (.inr ⟨rfl, hm, rfl⟩))⟩
      · cases (exec_gate_of_ne_run hr hm).symm.trans e; exact ⟨rfl, rfl, .inl rfl⟩
    case reset => exact absurd rfl hne
    all_goals exact nomatch hc

theorem exec_resetEnd_kept {s t : State} (e : exec .resetEnd s = .next t) :
    t.shortFrames = s.shortFrames ∧ t.mem = s.mem ∧
      (t.mode = s.mode ∨ s.inReset = true ∧ s.pfail = true ∧ t.mode = .frozen) := by
  cases e
  split
  · next hr =>
    refine ⟨rfl, rfl, ?_⟩
    cases hp : s.pfail with
    | true => exact .inr ⟨hr, rfl, rfl⟩
    | false => exact .inl rfl
  · exact ⟨rfl, rfl, .inl rfl⟩

theorem exec_pfailAsserted_kept {s t : State} (e : exec .pfailAsserted s = .next t) :
    t.shortFrames = s.shortFrames ∧ t.mem = s.mem ∧ (t.mode = s.mode ∨ t.mode = .frozen) := by
  have h := exec_pfailAsserted_fixed e
  refine ⟨?_, ?_, ?_⟩
  · exact show t.fixed.shortFrames = _ by rw [h]; rfl
  · exact show t.fixed.mem = _ by rw [h]; rfl
  · cases hr : s.inReset with
    | true => exact .inl (show t.fixed.mode = _ by rw [h, hr]; rfl)
    | false => exact .inr (exec_pfailAsserted_mode e hr)

/-! ### The ordinary commands -/

/-- What the ordinary commands leave: memory and the mode. -/
structure MemKept (s t : State) : Prop where
  mem : t.mem = s.mem
  mode : t.mode = s.mode

namespace MemKept

theorem of_fixed {s t : State} (h : t.fixed = s.fixed) : MemKept s t := ⟨State.mem_of_fixed h, State.mode_of_fixed h⟩

theorem keepsCommands : KeepsCommands MemKept where
  trans h h' := ⟨h'.mem.trans h.mem, h'.mode.trans h.mode⟩
  quiet e := ⟨(congrArg State.mem e).symm, (congrArg State.mode e).symm⟩
  raise _ _ _ _ _ _ _ := of_fixed (State.raise_fixed ..)
  takeRollback _ _ _ := of_fixed (State.takeRollback_fixed ..)
  takeCommit _ _ := of_fixed (State.takeCommit_fixed ..)
  retime _ _ := ⟨rfl, rfl⟩
  openWith _ _ _ _ := of_fixed (State.openWith_fixed ..)
  requeue _ _ _ _ := ⟨rfl, rfl⟩
  countShort _ := ⟨rfl, rfl⟩
  popEvent _ := ⟨rfl, rfl⟩
  dropArming _ _ := ⟨rfl, rfl⟩

end MemKept

theorem ordinary_or_shiftsMode {c : Instr} (hg : c.isGrant = false) : ordinary c = true ∨ shiftsMode c = true := by
  cases c
  case setGeometry | format | recover | gate | pfailAsserted | reset | resetEnd => exact .inr rfl
  all_goals exact .inl (congrArg not hg)

/-- Settles O55: the ordinary commands keep memory, and so does each of the others but the grants. -/
theorem onlyGrantsTouchMemory : Obligations.OnlyGrantsTouchMemory := by
  intro c s t hg e
  rcases ordinary_or_shiftsMode hg with ho | hc
  · exact (MemKept.keepsCommands.exec_ordinary s ho e).mem
  · cases c
    case setGeometry | format | recover | gate => exact (exec_setsUp_kept rfl (by nofun) e).2.1
    case pfailAsserted => exact (exec_pfailAsserted_kept e).2.1
    case resetEnd => exact (exec_resetEnd_kept e).2.1
    case reset => cases e; rfl
    all_goals exact nomatch hc

/-- Settles O56: a grant row leaves the mode or ends the work in force, which the law of the bindings places in
FORMATTING and RECOVERING; the ordinary commands leave it, and the others shift it as listed. -/
theorem modeChangesAsListed : Obligations.ModeChangesAsListed := by
  intro c s t hb e hne
  cases hg : c.isGrant with
  | true =>
    obtain ⟨hw, hm, hrun⟩ := (ModeKept.keepsRows.exec_grant s hg e).mode.resolve_left hne
    have hworking : s.mode = .formatting ∨ s.mode = .recovering := by
      cases hs : s.mode with
      | formatting => exact .inl rfl
      | recovering => exact .inr rfl
      | gated => exact absurd (hb.gated hs).1 hw
      | run => exact absurd (hb.run hs) hw
      | frozen => exact absurd hs hm
    exact .inr (.inr (.inr (.inr (.inr (.inr ⟨rfl, hworking, hrun⟩)))))
  | false =>
    rcases ordinary_or_shiftsMode hg with ho | hc
    · exact absurd (MemKept.keepsCommands.exec_ordinary s ho e).mode hne
    · cases c
      case setGeometry | format | recover | gate =>
        rcases (exec_setsUp_kept rfl (by nofun) e).2.2.resolve_left hne with h | h | h
        · exact .inl h
        · exact .inr (.inl h)
        · exact .inr (.inr (.inl h))
      case pfailAsserted =>
        exact .inr (.inr (.inr (.inl ⟨rfl, (exec_pfailAsserted_kept e).2.2.resolve_left hne⟩)))
      case resetEnd =>
        exact .inr (.inr (.inr (.inr (.inr (.inl ⟨rfl, (exec_resetEnd_kept e).2.2.resolve_left hne⟩)))))
      case reset => cases e; exact .inr (.inr (.inr (.inr (.inl ⟨rfl, rfl⟩))))
      all_goals exact nomatch hc

/-! ### Short frames -/

theorem State.frameByte_of_encode {c : Instr} {bytes : List Byte} (h : encodeFrame c = some bytes) (t : State) (k : Nat) :
    t.frameByte c k = if k < bytes.length then 0x00#8 else t.outByte (k - bytes.length) := by
  unfold State.frameByte; rw [h]

theorem exec_shortFrame {s : State} (hr : s.inReset = false) :
    exec .shortFrame s =
      .next { s with shortFrames := if s.shortFrames = 255#8 then 255#8 else s.shortFrames + 1#8, sdo := [] } := by
  rw [← saturate_eq]
  exact congrArg _ (State.frame_eq hr _)

/-- Settles O8: only a reset lowers the count, since the grant rows and the ordinary commands keep `ModeKept`; the bytes
on SDO are read off the length of the encoded frame. -/
theorem shortAndUnknownFrames : Obligations.ShortAndUnknownFrames := by
  refine ⟨fun s hr => ⟨exec_shortFrame hr, fun op => congrArg _ (State.frame_eq hr _)⟩, fun c s t hne e => ?counts,
    fun c bytes s t hc _ => ⟨fun k hk => ?shifting, fun k => ?response⟩, fun s t hr e k => ?none⟩
  case counts =>
    cases hs : shiftsMode c with
    | false => exact (exec_modeKept hs e).short
    | true =>
      cases c
      case setGeometry | format | recover | gate => exact (exec_setsUp_kept rfl hne e).1 ▸ Nat.le_refl _
      case pfailAsserted => exact (exec_pfailAsserted_kept e).1 ▸ Nat.le_refl _
      case resetEnd => exact (exec_resetEnd_kept e).1 ▸ Nat.le_refl _
      case reset => exact absurd rfl hne
      all_goals exact nomatch hs
  case shifting => rw [State.frameByte_of_encode hc, if_pos hk]
  case response =>
    rw [State.frameByte_of_encode hc, if_neg (by omega), Nat.add_sub_cancel_left, State.outByte_eq]
  case none =>
    cases (exec_shortFrame hr).symm.trans e
    rfl

end Sys2Proof.Machine
end

section
/-! SUPPORT. Frames of the management port: encoding and decoding, the event queue and its commands, limits, geometry, accounting, context records; and the statements. -/

namespace Sys2Proof.Machine

variable {s : State}

/-! ### The queue of commands, and frames -/

theorem step_of_cons {c : Instr} {rest : List Instr} (h : s.pending = c :: rest) :
    step s = exec c { s with pending := rest } := by
  unfold step; rw [h]

/-- Settles O1: the step runs the command that it takes from the queue. -/
theorem stepRunsFrontCommand : Obligations.StepRunsFrontCommand := fun _ _ _ h => step_of_cons h

/-- Settles O4: each frame is read by its opcode's row of the summary. -/
theorem framesSpellCommands : Obligations.FramesSpellCommands :=
  ⟨rfl, rfl, rfl, rfl, rfl, rfl, rfl, rfl, rfl, rfl⟩

/-! ### Fields of a frame: the bytes of a field, most significant first, join to it -/

theorem append_be16 (x : BitVec 16) : x.extractLsb' 8 8 ++ x.extractLsb' 0 8 = x := by
  ext k hk
  simp only [BitVec.getElem_append, BitVec.getElem_extractLsb']
  interval_cases k <;> rfl

theorem append_be24 (x : WideAddr) : x.extractLsb' 16 8 ++ x.extractLsb' 8 8 ++ x.extractLsb' 0 8 = x := by
  ext k hk
  simp only [BitVec.getElem_append, BitVec.getElem_extractLsb']
  interval_cases k <;> rfl

theorem append_be32 (x : Word) :
    x.extractLsb' 24 8 ++ x.extractLsb' 16 8 ++ x.extractLsb' 8 8 ++ x.extractLsb' 0 8 = x := append_byteOf x

theorem decodeFrame_of_badOpcode : ∀ op : Byte, commandOpcodes.contains op = false → decodeFrame [op] = .badOpcode op := by
  decide

/-- Settles O3: a frame's fields stand in it byte for byte, and joining the bytes of a field gives the field. -/
theorem decodeEncodeAgree : Obligations.DecodeEncodeAgree := by
  intro i bytes hwf henc
  cases i
  case badOpcode op =>
    cases henc
    exact decodeFrame_of_badOpcode op (Bool.not_inj (y := false) hwf)
  case setGeometry j n g =>
    cases henc
    exact congrArg₂ (Instr.setGeometry · · g) (append_be24 j) (append_be16 n)
  case setLimits q c j h i l t =>
    cases henc
    show Instr.setLimits _ _ j _ _ l t = _
    rw [append_be16, append_be16, append_be16, append_be16]
  case setRegion i e m b l =>
    cases henc
    exact congrArg₂ (Instr.setRegion i e m) (append_be24 b) (append_be24 l)
  case setGuard i e a x m t act b =>
    cases henc
    show Instr.setGuard i e _ _ _ t act b = _
    rw [append_be24, append_be32, append_be32]
  case setEventMask m =>
    cases henc
    exact congrArg Instr.setEventMask (append_be16 m)
  case getId | getStatus | popEvent | ackLost | repeatResponse | format | recover | gate | getLimits | getRegion
      | getGuard | openEpoch | commit | abort | touch | retry | discard | getContext | setAccounting | getCounters
      | clearCounters | unfence | setStatSelect | shortFrame => cases henc; rfl
  all_goals exact nomatch henc

/-! ### The event queue -/

section
variable {k : EventKind} {c : Option CtxNum} {i : Option SrcNum} {code : Option Byte} {n : BitVec 16} {a : Option Addr}

theorem State.raise_of_disabled (h : s.eventMask.getLsbD k.code = false) : s.raise k c i code n a = s :=
  if_neg (Bool.eq_false_iff.1 h)

variable (h : s.eventMask.getLsbD k.code = true)
include h

theorem State.raise_of_room (hroom : s.events.length < 32) :
    s.raise k c i code n a =
      { s with events := s.events ++ [⟨k, s.eventSeq, c, i, code, s.mode, n, a⟩], eventSeq := s.eventSeq + 1#8 } :=
  (if_pos h).trans (if_pos hroom)

theorem State.raise_of_full (hfull : 32 ≤ s.events.length) :
    s.raise k c i code n a =
      { s with eventSeq := s.eventSeq + 1#8,
               lostEvents := if s.lostEvents = 255#8 then 255#8 else s.lostEvents + 1#8 } := by
  rw [← saturate_eq]
  exact (if_pos h).trans (if_neg (Nat.not_lt.2 hfull))

end

/-- Settles O11: the three branches of `raise`. -/
theorem eventQueueTakesEvents : Obligations.EventQueueTakesEvents := fun _ _ _ _ _ _ _ =>
  ⟨State.raise_of_disabled, State.raise_of_room, State.raise_of_full⟩

theorem State.irq_of_events {l : List Event} (h : s.events = l) : s.irq = !l.isEmpty := by rw [State.irq, h]

/-- The byte of a context number that may be absent (R167, R168). -/
theorem orNone_map_ctx (o : Option CtxNum) :
    orNone (o.map fun c => byte1 c.val) = match o with | some c => BitVec.ofNat 8 c.val | none => 0xFF#8 := by
  cases o <;> rfl

theorem orNone_map_src (o : Option SrcNum) :
    orNone (o.map fun i => byte1 i.val) = match o with | some i => BitVec.ofNat 8 i.val | none => 0xFF#8 := by
  cases o <;> rfl

theorem EventKind.byte1_code (k : EventKind) :
    byte1 k.code = match k with
      | .committed => 1#8 | .rolledBack => 2#8 | .faulted => 3#8 | .discarded => 4#8 | .guard => 5#8
      | .threshold => 6#8 | .lowWater => 7#8 | .recoveryDone => 8#8 | .formatDone => 9#8 := by
  cases k <;> rfl

theorem exec_popEvent_of_nil (hr : s.inReset = false) (he : s.events = []) :
    exec .popEvent s = .next (s.replied [0x89#8]) := by
  rw [exec_popEvent, State.frame_eq hr, he]; rfl

section
variable {m : BitVec 16} (hr : s.inReset = false)
include hr

theorem exec_setEventMask_of_bad_argument (hm : s.mode ≠ .frozen) (h : m &&& 0xFC01#16 ≠ 0#16) :
    exec (.setEventMask m) s = .next (s.replied [0x81#8]) :=
  congrArg _ ((State.liveFrame_of_ne hr hm _).trans (by rw [if_pos h]; rfl))

theorem exec_setEventMask_taken (hm : s.mode ≠ .frozen) (h : m &&& 0xFC01#16 = 0#16) :
    exec (.setEventMask m) s = .next ({ s with eventMask := m }.replied [0x00#8]) :=
  congrArg _ ((State.liveFrame_of_ne hr hm _).trans (by rw [if_neg (not_not.2 h)]; rfl))

end

/-- Settles O6: the record at the head by its bytes, ACK_LOST, and the mask by `eventMask_iff`. -/
theorem eventsAreReadAndMasked : Obligations.EventsAreReadAndMasked := by
  refine ⟨fun s hr => ⟨fun he => ⟨exec_popEvent_of_nil hr he, State.irq_of_events he⟩,
      fun e rest he => ⟨State.irq_of_events he, ?record⟩, congrArg _ (State.frame_eq hr _)⟩,
    fun s m hr => ⟨fun hm => congrArg _ (State.liveFrame_of_frozen hr hm _), fun hm => ⟨fun hbad => ?bad, fun hok =>
      exec_setEventMask_taken hr hm ((eventMask_iff m).2 hok)⟩⟩⟩
  case record =>
    rw [exec_popEvent_of_cons hr he, Event.bytes, orNone_map_ctx, orNone_map_src, EventKind.byte1_code]
    cases e.addr <;> rfl
  case bad =>
    refine exec_setEventMask_of_bad_argument hr hm fun h => ?_
    obtain ⟨hzero, hhigh⟩ := (eventMask_iff m).1 h
    rcases hbad with h0 | ⟨k, hk, hbit⟩
    · exact Bool.false_ne_true (hzero.symm.trans h0)
    · exact Bool.false_ne_true ((hhigh k hk).symm.trans hbit)

/-! ### Limits and geometry -/

section
variable {q c h i : BitVec 16} {j l t : Byte} (hr : s.inReset = false)
include hr

theorem exec_setLimits_of_mode (hg : s.mode ≠ .gated) (hrun : s.mode ≠ .run) :
    exec (.setLimits q c j h i l t) s = .next (s.replied [0x82#8]) := by
  refine congrArg _ (State.checkedFrame_of_refused hr ?_ _)
  cases hm : s.mode with
  | gated => exact absurd hm hg
  | run => exact absurd hm hrun
  | formatting => exact .inr (.inl rfl)
  | recovering => exact .inr (.inr rfl)
  | frozen => exact .inl rfl

variable (hm : s.mode = .gated ∨ s.mode = .run)
include hm

theorem State.limitsFrame_eq (f : State → State) :
    (s.frame fun s =>
      if s.mode = .frozen ∨ s.mode = .formatting ∨ s.mode = .recovering then s.answer .wrongMode else f s) = f s := by
  rw [State.frame_eq hr, if_neg]
  rcases hm with hm | hm <;> rw [hm] <;> nofun

theorem exec_setLimits_of_bad_argument (hl : asLimits q c j h i l t = none) :
    exec (.setLimits q c j h i l t) s = .next (s.replied [0x81#8]) :=
  congrArg _ ((State.limitsFrame_eq hr hm _).trans (by rw [hl]; rfl))

variable {x : Limits} (hl : asLimits q c j h i l t = some x)
include hl

theorem exec_setLimits_of_busy (hq : s.quiet = false) :
    exec (.setLimits q c j h i l t) s = .next (s.replied [0x83#8]) :=
  congrArg _ ((State.limitsFrame_eq hr hm _).trans (by rw [hl, hq]; rfl))

theorem exec_setLimits_taken (hq : s.quiet = true) :
    exec (.setLimits q c j h i l t) s = .next ({ s with limits := x }.replied [0x00#8]) :=
  congrArg _ ((State.limitsFrame_eq hr hm _).trans (by rw [hl, hq]; rfl))

end

/-- Settles O9: the mode, the ranges of `asLimits_iff` and the busy check in this order. -/
theorem limitsAreSetAndRead : Obligations.LimitsAreSetAndRead := by
  refine fun s q c h i j l t hr => ⟨?read, exec_setLimits_of_mode hr, fun hm => ⟨fun hbad => ?bad,
    fun hq hq' hc hc' hj hh hh' ht => ?ranges⟩⟩
  case read =>
    refine congrArg _ ((State.frame_eq hr _).trans ?_)
    cases hj : s.limits.jfull <;> rw [Limits.bytes, hj] <;> rfl
  case bad => exact exec_setLimits_of_bad_argument hr hm ((asLimits_iff ..).trans (if_neg hbad))
  case ranges =>
    have hl := (asLimits_iff q c h i j l t).trans (if_pos ⟨hq, hq', hc, hc', hj, hh, hh', ht⟩)
    exact ⟨fun hbusy => exec_setLimits_of_busy hr hm hl (s.quiet_false hbusy),
      fun hfree hqueue => exec_setLimits_taken hr hm hl (s.quiet_iff.2 ⟨hfree, hqueue⟩)⟩

section
variable {j : WideAddr} {n : BitVec 16} {g : Byte} (hr : s.inReset = false)
include hr

theorem exec_setGeometry_of_bad_argument (hm : s.mode = .gated) (h : asGeometry j n = none) :
    exec (.setGeometry j n g) s = .next (s.replied [0x81#8]) :=
  congrArg _ ((State.checkedFrame_of_gated hr hm _).trans (by rw [h]; rfl))

theorem exec_setGeometry_taken {a : Addr} {k : Nat} (hm : s.mode = .gated) (h : asGeometry j n = some (a, k)) :
    exec (.setGeometry j n g) s = .next ({ s with jbase := a, nseg := k, gen := g, pool := [] }.replied [0x00#8]) :=
  congrArg _ ((State.checkedFrame_of_gated hr hm _).trans (by rw [h]; rfl))

end

/-- Settles O12: the mode, then the argument checks of `asGeometry_eq`. -/
theorem geometryIsSet : Obligations.GeometryIsSet := by
  refine fun s j n g hr => ⟨fun hm => congrArg _ (State.checkedFrame_of_refused hr hm _),
    fun hm => ⟨fun hbad => ?_, fun hj hn hn' hfits => ?_⟩⟩
  · exact exec_setGeometry_of_bad_argument hr hm ((asGeometry_eq j n).trans (if_neg (by omega)))
  · exact exec_setGeometry_taken hr hm ((asGeometry_eq j n).trans (if_pos ⟨hj, hn, hn', hfits⟩))

end Sys2Proof.Machine
end

section
/-! SUPPORT. The commands of the accounting and GET_CONTEXT: their checks, their effects and their bytes; the reset and the arbiter; and the statements. -/

namespace Sys2Proof.Machine

variable {s : State}

/-! ### The operands of the accounting commands -/

theorem asGroup_none {b : Byte} (h : 2 < b.toNat) : asGroup b = none := by
  have h0 : b ≠ 0#8 := by bv_omega
  have h1 : b ≠ 1#8 := by bv_omega
  have h2 : b ≠ 2#8 := by bv_omega
  rw [asGroup, if_neg h0, if_neg h1, if_neg h2]

theorem asGroup_of_lt {b : Byte} (h : b.toNat < 3) : ∃ g, asGroup b = some g ∧ g.index.val = b.toNat := by
  have hb : b = 0#8 ∨ b = 1#8 ∨ b = 2#8 := by bv_omega
  rcases hb with rfl | rfl | rfl
  · exact ⟨.conflict, rfl, rfl⟩
  · exact ⟨.capacity, rfl, rfl⟩
  · exact ⟨.policy, rfl, rfl⟩

theorem asHoldMode_eq (b : Byte) :
    asHoldMode b = if b.toNat = 0 then some .saturate else if b.toNat = 1 then some .roll else none := by
  simp [asHoldMode, BitVec.toNat_eq]

theorem asSettings_none {th hm am : Byte} (h : th = 0#8 ∨ 1 < hm.toNat ∨ 7 < am.toNat) : asSettings th hm am = none := by
  unfold asSettings
  rw [asHoldMode_eq]
  by_cases hbad : 1 < hm.toNat
  · rw [if_neg (by omega), if_neg (by omega)]; rfl
  · have hrange : ¬ (th ≠ 0#8 ∧ am.toNat ≤ 7) := fun ⟨hth, ham⟩ => by
      rcases h with h | h | h
      · exact hth h
      · exact hbad h
      · omega
    rcases Nat.le_one_iff_eq_zero_or_eq_one.1 (Nat.not_lt.1 hbad) with h0 | h1
    · rw [if_pos h0]; exact if_neg hrange
    · rw [if_neg (by omega), if_pos h1]; exact if_neg hrange

theorem asSettings_some {th hm am : Byte} (hth : th ≠ 0#8) (hhm : hm.toNat ≤ 1) (ham : am.toNat ≤ 7) :
    asSettings th hm am = some ⟨th, if hm.toNat = 0 then .saturate else .roll, BitVec.ofNat 3 am.toNat⟩ := by
  have hactions : am.setWidth 3 = BitVec.ofNat 3 am.toNat := by apply BitVec.eq_of_toNat_eq; simp
  unfold asSettings
  rw [asHoldMode_eq, ← hactions]
  rcases Nat.le_one_iff_eq_zero_or_eq_one.1 hhm with h0 | h1
  · rw [if_pos h0, if_pos h0]; exact if_pos ⟨hth, ham⟩
  · rw [if_neg (by omega), if_pos h1, if_neg (by omega)]; exact if_pos ⟨hth, ham⟩

/-! ### SET_ACCOUNTING, CLEAR_COUNTERS and UNFENCE -/

section
variable {g th hm am i m : Byte} (hr : s.inReset = false) (hmode : s.mode ≠ .frozen)
include hr hmode

theorem exec_setAccounting_of_bad_argument (h : asGroup g = none ∨ asSettings th hm am = none) :
    exec (.setAccounting g th hm am) s = .next (s.replied [0x81#8]) := by
  refine congrArg _ ((State.liveFrame_of_ne hr hmode _).trans ?_)
  rcases h with hg | hx
  · rw [hg]; rfl
  · rw [hx]; cases asGroup g <;> rfl

theorem exec_setAccounting_taken {x : Group} {z : GroupSettings} (hg : asGroup g = some x)
    (hz : asSettings th hm am = some z) :
    exec (.setAccounting g th hm am) s = .next ((s.setSettings x z).replied [0x00#8]) :=
  congrArg _ ((State.liveFrame_of_ne hr hmode _).trans (by rw [hg, hz]; rfl))

theorem exec_clearCounters_of_bad_argument (h : asSource i = none ∨ 7 < m.toNat) :
    exec (.clearCounters i m) s = .next (s.replied [0x81#8]) := by
  refine congrArg _ ((State.liveFrame_of_ne hr hmode _).trans ?_)
  cases hi : asSource i with
  | none => rfl
  | some j => exact if_pos (h.resolve_left (by rw [hi]; nofun))

theorem exec_clearCounters_taken {j : SrcNum} (hi : asSource i = some j) (hm : m.toNat ≤ 7) :
    exec (.clearCounters i m) s = .next ((((s.clearIf j .conflict (m.getLsbD 0)).clearIf j .capacity (m.getLsbD 1)).clearIf
      j .policy (m.getLsbD 2)).replied [0x00#8]) := by
  refine congrArg _ ((State.liveFrame_of_ne hr hmode _).trans ?_)
  rw [hi]
  exact if_neg (Nat.not_lt.2 hm)

theorem exec_unfence_of_bad_source (h : 3 < i.toNat) : exec (.unfence i) s = .next (s.replied [0x81#8]) :=
  congrArg _ ((State.liveFrame_of_ne hr hmode _).trans (by rw [asSource_none h]; rfl))

theorem exec_unfence_taken {j : SrcNum} (hi : i.toNat = j.val) :
    exec (.unfence i) s = .next ((s.setFence j false).replied [0x00#8]) :=
  congrArg _ ((State.liveFrame_of_ne hr hmode _).trans (by rw [asSource_of hi]; rfl))

end

theorem State.clearIf_eq (i : SrcNum) (g : Group) (w : Bool) :
    s.clearIf i g w = { s with counters := (s.clearIf i g w).counters } := by
  cases w <;> rfl

theorem State.clearIf_counter (i j : SrcNum) (g h : Group) (w : Bool) :
    (s.clearIf i g w).counter j h = if w = true ∧ j = i ∧ h = g then ⟨0#8, false⟩ else s.counter j h := by
  cases w with
  | false => rw [if_neg (by nofun)]; rfl
  | true => simp only [true_and]; exact State.setCounter_counter ..

theorem State.clear_counter (i j : SrcNum) (h : Group) (m : Byte) :
    (((s.clearIf i .conflict (m.getLsbD 0)).clearIf i .capacity (m.getLsbD 1)).clearIf i .policy
      (m.getLsbD 2)).counter j h = if j = i ∧ m.getLsbD h.index.val = true then ⟨0#8, false⟩ else s.counter j h := by
  rw [State.clearIf_counter, State.clearIf_counter, State.clearIf_counter]
  cases h <;> simp [Group.index, and_comm]

/-! ### GET_COUNTERS -/

theorem flagByte_eq (b : Bool) : flagByte b = if b then 1#8 else 0#8 := rfl

theorem HoldMode.code_eq (m : HoldMode) : m.code = if m = .roll then 1#8 else 0#8 := by cases m <;> rfl

theorem setWidth_actions (x : BitVec 3) : x.setWidth 8 = BitVec.ofNat 8 x.toNat := by
  apply BitVec.eq_of_toNat_eq; simp

theorem exec_getCounters_of_source {b : Byte} {i : SrcNum} (hr : s.inReset = false) (hb : b.toNat = i.val) :
    exec (.getCounters b) s = .next (s.replied (0x00#8 :: s.counterBytes i)) :=
  congrArg _ ((State.frame_eq hr _).trans (by rw [asSource_of hb]; rfl))

/-- Settles O22: the checks in their order, the counters that a mask clears, and the 16 bytes by their parts. -/
theorem accountingCommandsAreTaken : Obligations.AccountingCommandsAreTaken := by
  refine ⟨fun s g th hm am i m hr => ⟨fun hmode => ⟨congrArg _ (State.liveFrame_of_frozen hr hmode _),
      congrArg _ (State.liveFrame_of_frozen hr hmode _), congrArg _ (State.liveFrame_of_frozen hr hmode _)⟩,
    fun hmode => ⟨fun hbad => ?badSettings, fun hg hth hhm ham => ?settings, fun hbad => ?badClear,
      fun hi hm7 => ?clear, exec_unfence_of_bad_source hr hmode, fun hi => exec_unfence_taken hr hmode (j := ⟨i.toNat, hi⟩) rfl⟩⟩,
    fun s i hr => ⟨fun hi => ?badSource, fun hi => ?counters⟩⟩
  case badSettings => exact exec_setAccounting_of_bad_argument hr hmode (hbad.imp asGroup_none asSettings_none)
  case settings =>
    intro x
    obtain ⟨y, hy, hindex⟩ := asGroup_of_lt hg
    rw [exec_setAccounting_taken hr hmode hy (asSettings_some hth hhm ham)]
    simp only [State.setSettings, hindex, x]
  case badClear => exact exec_clearCounters_of_bad_argument hr hmode (hbad.imp_left asSource_none)
  case clear =>
    refine ⟨_, exec_clearCounters_taken hr hmode (j := ⟨i.toNat, hi⟩) (asSource_of rfl) hm7, ?_,
      fun j h => State.clear_counter ..⟩
    rw [State.clearIf_eq, State.clearIf_eq (s := s.clearIf _ _ _), State.clearIf_eq (s := s)]
  case badSource => exact congrArg _ ((State.frame_eq hr _).trans (by rw [asSource_none hi]; rfl))
  case counters =>
    intro k z
    rw [exec_getCounters_of_source hr (i := ⟨i.toNat, hi⟩) rfl, State.counterBytes]
    simp only [HoldMode.code_eq, setWidth_actions]
    rfl

/-! ### GET_CONTEXT -/

theorem exec_getContext_of_context {b : Byte} {c : CtxNum} (hr : s.inReset = false) (hb : b.toNat = c.val) :
    exec (.getContext b) s = .next (s.replied (0x00#8 :: s.contextBytes c)) :=
  congrArg _ ((State.frame_eq hr _).trans (by rw [asCtx_of hb]; rfl))

theorem byte1_ctx {b : Byte} {c : CtxNum} (hb : b.toNat = c.val) : byte1 c.val = b := by
  rw [byte1, ← hb, BitVec.ofNat_toNat, BitVec.setWidth_eq]

/-- The byte of the queue position (R20). -/
def State.placeByte (s : State) (c : CtxNum) : Byte := orNone ((queuePos s.queue c).map byte1)

/-- The 29 bytes of a context that is not FREE, field by field. -/
theorem State.contextBytes_active {c : CtxNum} {p : Phase} {e : Epoch} (hc : s.ctx c = .active p e) :
    s.contextBytes c =
      [byte1 c.val, (Context.active p e).stateCode, byte1 e.source.val] ++ num16 e.seq.toNat ++
      [orNone ((Context.active p e).cause.map (·.code))] ++ num16 e.chain.length ++
      orNone16 (e.chain.head?.map (·.seg)) ++ orNone16 (e.chain.getLast?.map (·.seg)) ++
      [byte1 e.fill, flagByte e.headerWritten, flagByte e.markerWritten] ++ num16 (s.claimsHeld c) ++
      num16 e.preWritten ++ num16 e.restored ++ num16 (((Context.active p e).idle.map (·.ms)).getD 0) ++
      [s.placeByte c, orNone ((Context.active p e).fault.map (·.kind.code)),
        orNone ((Context.active p e).fault.map (·.origin.code))] ++
      (orNone16 (((Context.active p e).fault.bind (·.pos)).map (·.seg)) ++
      [orNone (((Context.active p e).fault.bind (·.pos)).map fun p => byte1 p.slot)]) := by
  unfold State.contextBytes
  rw [hc]
  exact List.append_assoc ..

theorem orNone16_map_seg (o : Option ChainEntry) :
    orNone16 (o.map (·.seg)) =
      match o with | some x => be16 (BitVec.ofNat 16 x.seg) | none => [0xFF#8, 0xFF#8] := by
  cases o <;> rfl

theorem num16_toNat (x : BitVec 16) : num16 x.toNat = be16 x := by
  rw [num16, BitVec.ofNat_toNat, BitVec.setWidth_eq]

/-- Settles O30: the bytes of a FREE context are all absent; those of another are read off its phase and, in FAULTED, off
its fault fields. -/
theorem contextsAreRead : Obligations.ContextsAreRead := by
  refine fun s b hr => ⟨fun hb => congrArg _ ((State.frame_eq hr _).trans (by rw [asCtx_none hb]; rfl)),
    fun c hb => ⟨s.placeByte c, fun hout => ?out, fun front q back hqueue hq hfront => ?place, fun hc => ?free,
      fun p e hc => ?active⟩⟩
  case out => rw [State.placeByte, queuePos_none _ _ hout]; rfl
  case place => rw [State.placeByte, hqueue, queuePos_some front back q c hq hfront]; rfl
  case free =>
    rw [exec_getContext_of_context hr hb, State.contextBytes, hc, byte1_ctx hb]
    rfl
  case active =>
    rw [exec_getContext_of_context hr hb, State.contextBytes_active hc, byte1_ctx hb, num16_toNat, orNone16_map_seg,
      orNone16_map_seg]
    cases p with
    | opened t => cases t <;> rfl
    | committing => rfl
    | discarding => rfl
    | rollingBack k => rfl
    | faulted k f =>
      obtain ⟨kind, origin, pos⟩ := f
      cases pos <;> rfl

/-! ### Reset -/

/-- The state that a reset leaves (R140). -/
def State.afterReset (s : State) : State :=
  { State.reset with pending := s.pending, mem := s.mem, pfail := s.pfail, choices := s.choices, inReset := true }

theorem State.grantRow_of_ne_holder {r : Requester} (h : s.holder ≠ some r) (mine : Task → Bool) (start : Option State)
    (x : Extent) : s.grantRow r mine start x = s := if_neg h

/-- A grant row does nothing while the port is free (R76). -/
theorem exec_grant_of_free {c : Instr} (hc : c.isGrant = true) (hh : s.holder = none) : exec c s = .next s := by
  have row (r : Requester) (mine start x) : s.grantRow r mine start x = s :=
    State.grantRow_of_ne_holder (by rw [hh]; nofun) ..
  cases c
  case forwardedRead | forwardedWrite | journalledWriteGrant => exact congrArg Host.Outcome.next (row .hp ..)
  case armingRead => exact congrArg Host.Outcome.next (row .ga ..)
  case commitMarker | restoreStep | abortMarker | discardMarker | freeingStep | formatStep | surveyStep
      | judgementFinalSegment | judgementSegment | claimRebuild => exact congrArg Host.Outcome.next (row .be ..)
  all_goals exact nomatch hc

/-- While a reset is in force no access, no frame and no grant takes effect (R140). -/
theorem exec_of_afterReset {c : Instr} (hr : c ≠ .reset) (he : c ≠ .resetEnd) (ha : c ≠ .pfailAsserted)
    (hd : c ≠ .pfailDeasserted) : exec c s.afterReset = .next s.afterReset := by
  have frame (f : State → State) : s.afterReset.frame f = s.afterReset := State.frame_reset rfl f
  cases c
  case reset => exact absurd rfl hr
  case resetEnd => exact absurd rfl he
  case pfailAsserted => exact absurd rfl ha
  case pfailDeasserted => exact absurd rfl hd
  case hostAccessStart | strobeIgnored | idleExpiry | holdExpired => rfl
  case forwardedRead | forwardedWrite | journalledWriteGrant | armingRead | commitMarker | restoreStep | abortMarker
      | discardMarker | freeingStep | formatStep | surveyStep | judgementFinalSegment | judgementSegment
      | claimRebuild => exact exec_grant_of_free rfl rfl
  all_goals exact congrArg Host.Outcome.next (frame _)

theorem State.reset_region (i : Fin 16) : State.reset.region i = ⟨false, .pass, 0#22, 0#22⟩ :=
  Vector.getElem_replicate i.isLt

theorem State.reset_guard (i : Fin 8) :
    State.reset.guard i = ⟨false, 0#22, 0#32, 0#32, .onBreak, .note, some 0, .unarmed⟩ :=
  Vector.getElem_replicate i.isLt

theorem State.reset_counter (i : SrcNum) (g : Group) : State.reset.counter i g = ⟨0#8, false⟩ := by
  have hrow : State.reset.counters[i] = Vector.replicate 3 Counter.reset := Vector.getElem_replicate i.isLt
  rw [State.counter, hrow]
  exact Vector.getElem_replicate g.index.isLt

theorem State.reset_settings (g : Group) : State.reset.settings g = ⟨255#8, .saturate, 0#3⟩ :=
  Vector.getElem_replicate g.index.isLt

/-- Settles O52: the values are those of `State.reset`, and in them every command but the four of the reset and of PFAIL#
leaves the state. -/
theorem resetReturnsToGated : Obligations.ResetReturnsToGated := by
  refine fun s => ⟨s.afterReset, rfl, rfl, rfl, rfl, rfl, rfl, rfl, rfl, rfl, rfl, rfl, rfl, rfl, rfl, rfl, rfl, rfl,
    rfl, rfl, State.reset_ctx, State.reset_source, State.reset_region, State.reset_guard, State.reset_counter,
    State.reset_settings, rfl, rfl, rfl, rfl, rfl, rfl, rfl, fun _ => exec_of_afterReset, fun hp => ?_, fun hp => ?_⟩
  · exact congrArg Host.Outcome.next (congrArg (fun m => { s.afterReset with inReset := false, mode := m }) (if_pos hp))
  · exact congrArg Host.Outcome.next (congrArg (fun m => { s.afterReset with inReset := false, mode := m })
      (if_neg (Bool.eq_false_iff.1 hp)))

/-! ### The arbiter -/

theorem State.waits_hp_iff :
    s.waits .hp = true ↔ s.holder ≠ some .hp ∧ ∃ a r l, s.access = some ⟨a, .toMemory r, l⟩ := by
  unfold State.waits
  rw [Bool.and_eq_true, bne_iff_ne]
  refine and_congr_right fun _ => ?_
  dsimp only
  split
  · next a r l h => exact iff_of_true rfl ⟨a, r, l, h⟩
  · next h => exact iff_of_false (by nofun) fun ⟨a, r, l, e⟩ => h a r l e

theorem State.waits_be_iff :
    s.waits .be = true ↔ s.holder ≠ some .be ∧
      (((s.mode = .run ∨ s.mode = .recovering) ∧ s.queue ≠ []) ∨
        ((s.mode = .formatting ∨ s.mode = .recovering) ∧ s.work.hasStep = true)) := by
  unfold State.waits
  rw [Bool.and_eq_true, bne_iff_ne]
  refine and_congr_right fun _ => ?_
  cases s.mode <;> simp

theorem State.waits_ga_iff : s.waits .ga = true ↔ s.holder ≠ some .ga ∧ ∃ i, (s.guard i).state = .arming := by
  unfold State.waits
  rw [Bool.and_eq_true, bne_iff_ne]
  refine and_congr_right fun _ => List.any_eq_true.trans ?_
  simp only [beq_iff_eq, eight_mem, true_and]

/-- How far a requester stands behind the last holder in the cyclic order HP, BE, GA, HP (R76). -/
def Requester.later : Requester → Requester → Nat
  | .hp, .be => 0 | .hp, .ga => 1 | .hp, .hp => 2
  | .be, .ga => 0 | .be, .hp => 1 | .be, .be => 2
  | .ga, .hp => 0 | .ga, .be => 1 | .ga, .ga => 2

theorem Requester.order_eq (last r : Requester) :
    last.order = last.order.take (last.later r) ++ r :: last.order.drop (last.later r + 1) := by
  cases last <;> cases r <;> rfl

theorem Requester.later_lt_of_mem_take {last r x : Requester} :
    x ∈ last.order.take (last.later r) → last.later x < last.later r := by
  cases last <;> cases r <;> cases x <;> decide

/-- The search in the cyclic order finds the requester that stands first in it. -/
theorem Requester.find_order {w : Requester → Bool} {last r : Requester} (hr : w r = true)
    (hfirst : ∀ x, w x = true → x ≠ r → last.later r < last.later x) : last.order.find? w = some r := by
  refine List.find?_eq_some_iff_append.2 ⟨hr, _, _, Requester.order_eq last r, fun x hx => ?_⟩
  have hlt := Requester.later_lt_of_mem_take hx
  rw [Bool.not_eq_true', Bool.eq_false_iff]
  intro hw
  have hlater := hfirst x hw (by rintro rfl; exact Nat.lt_irrefl _ hlt)
  omega

theorem State.arbitrate_of_held (h : s.holder ≠ none) : s.arbitrate = s :=
  if_pos (by rw [Option.isSome_iff_ne_none.2 h]; rfl)

theorem State.arbitrate_of_free (hh : s.holder = none) (hm : s.mode ≠ .frozen) (hr : s.inReset = false) {r : Requester}
    (h : s.lastHolder.order.find? s.waits = some r) : s.arbitrate = { s with holder := some r } := by
  unfold State.arbitrate
  rw [hh, hr, beq_false_of_ne hm, h]
  rfl

theorem State.arbitrate_of_none (h : ∀ r, s.waits r = false) : s.arbitrate = s := by
  unfold State.arbitrate
  rw [List.find?_eq_none.2 fun r _ => Bool.eq_false_iff.1 (h r)]
  split <;> rfl

/-- Settles O54: who waits, by `waits` of each requester, and the choice by the search in the cyclic order. -/
theorem arbiterRotates : Obligations.ArbiterRotates := by
  refine fun s => ⟨State.waits_hp_iff, State.waits_be_iff, State.waits_ga_iff, State.arbitrate_of_held,
    State.arbitrate_of_none, fun r hh hm hr hw hfirst => ?_⟩
  refine State.arbitrate_of_free hh hm hr (Requester.find_order hw fun x hx hne => ?_)
  have hlater := hfirst x hx hne
  cases hl : s.lastHolder
  all_goals cases x
  all_goals cases r
  all_goals (rw [hl] at hlater; exact hlater)

end Sys2Proof.Machine
end

section
/-! SUPPORT. The Access Classifier: classification of reads and writes, the start of an access, what ends a hold, the time of the timers; and the statements. -/

namespace Sys2Proof.Machine

variable {s : State}

/-! ### Classification -/

theorem State.classify_read {a : Access} (hm : s.mode = .run) (hw : a.write = false) :
    s.classify a = if s.inWindow a.addr then .refused .journalWindow else s.classifyRead a := by
  rw [State.classify, hm, hw]; rfl

theorem State.classify_write {a : Access} (hm : s.mode = .run) (hw : a.write = true) :
    s.classify a = s.classifyWrite a := by
  rw [State.classify, hm, hw]; rfl

/-- Settles O15: the window first, then the state of the word's owner. -/
theorem readsAreClassified : Obligations.ReadsAreClassified := by
  intro s a hm hw
  rw [State.classify_read hm hw, State.classifyRead]
  cases s.owner a.addr with
  | none => rfl
  | some c =>
    dsimp only [Option.map_some]
    cases s.ctx c with
    | free => rfl
    | active p e => cases p <;> rfl

section
variable {a : Access} (hbe : a.be ≠ 0#4)
include hbe

theorem State.classifyWrite_of_inWindow (hwin : s.inWindow a.addr = true) :
    s.classifyWrite a = .refused .journalWindow := (if_neg hbe).trans (if_pos hwin)

variable (hwin : s.inWindow a.addr = false)
include hwin

theorem State.classifyWrite_of_fenced (hf : (s.source a.src).fenced = true) : s.classifyWrite a = .refused .fenced :=
  (if_neg hbe).trans ((if_neg (Bool.eq_false_iff.1 hwin)).trans (if_pos hf))

variable (hf : (s.source a.src).fenced = false)
include hf

theorem State.classifyWrite_of_readonly (hm : s.regionMode a.addr = .readonly) :
    s.classifyWrite a = .refused .readonly :=
  (if_neg hbe).trans ((if_neg (Bool.eq_false_iff.1 hwin)).trans ((if_neg (Bool.eq_false_iff.1 hf)).trans (if_pos hm)))

variable (hm : s.regionMode a.addr ≠ .readonly)
include hm

theorem State.classifyWrite_of_owner {c : CtxNum} (ho : s.owner a.addr = some c) :
    s.classifyWrite a = s.classifyClaimed a c := by
  refine (if_neg hbe).trans ((if_neg (Bool.eq_false_iff.1 hwin)).trans
    ((if_neg (Bool.eq_false_iff.1 hf)).trans ((if_neg hm).trans ?_)))
  rw [ho]

theorem State.classifyWrite_of_unclaimed (ho : s.owner a.addr = none) :
    s.classifyWrite a = s.classifyUnclaimed a := by
  refine (if_neg hbe).trans ((if_neg (Bool.eq_false_iff.1 hwin)).trans
    ((if_neg (Bool.eq_false_iff.1 hf)).trans ((if_neg hm).trans ?_)))
  rw [ho]

end

section
variable {a : Access}

theorem State.classifyUnclaimed_of_pass (h : s.regionMode a.addr = .pass) : s.classifyUnclaimed a = .send .forwarded := by
  rw [State.classifyUnclaimed, h]

theorem State.classifyUnclaimed_of_unbound_journal (h : s.regionMode a.addr = .journal)
    (hb : (s.source a.src).bound = none) : s.classifyUnclaimed a = .send .forwarded := by
  rw [State.classifyUnclaimed, h, hb]; rfl

theorem State.classifyUnclaimed_of_unbound_required (h : s.regionMode a.addr = .journalRequired)
    (hb : (s.source a.src).bound = none) : s.classifyUnclaimed a = .refused .noEpoch := by
  rw [State.classifyUnclaimed, h, hb]; rfl

theorem State.classifyUnclaimed_of_bound (hp : s.regionMode a.addr ≠ .pass) (hr : s.regionMode a.addr ≠ .readonly)
    {c : CtxNum} {p : Phase} {e : Epoch} (hb : (s.source a.src).bound = some c) (hc : s.ctx c = .active p e) :
    s.classifyUnclaimed a = .send (.journalled c e.seq) := by
  rw [State.classifyUnclaimed, hb]
  cases h : s.regionMode a.addr with
  | pass => exact absurd h hp
  | readonly => exact absurd h hr
  | journal | journalRequired => dsimp only; rw [hc]; rfl

end

/-- Settles O16: the steps of R65 in their order. -/
theorem writesAreClassified : Obligations.WritesAreClassified := by
  intro s a hm hw _
  rw [State.classify_write hm hw]
  refine ⟨fun hbe => if_pos hbe, State.classifyWrite_of_inWindow, fun hbe hwin => ⟨State.classifyWrite_of_fenced hbe hwin,
    fun hf => ⟨State.classifyWrite_of_readonly hbe hwin hf, fun hro => ⟨fun c p e ho hc => ?claimed, fun ho => ?unclaimed⟩⟩⟩⟩
  case claimed =>
    rw [State.classifyWrite_of_owner hbe hwin hf hro ho, State.classifyClaimed, hc]
    cases p <;> rfl
  case unclaimed =>
    rw [State.classifyWrite_of_unclaimed hbe hwin hf hro ho]
    exact ⟨State.classifyUnclaimed_of_pass, State.classifyUnclaimed_of_unbound_journal,
      State.classifyUnclaimed_of_unbound_required, fun c p e hp hb hc => State.classifyUnclaimed_of_bound hp hro hb hc⟩

/-! ### The start of an access -/

theorem State.with_access_none (h : s.access = none) : { s with access := none } = s := by rw [← h]

theorem exec_hostAccessStart_of_access {h : HostAccess} (ha : s.access = some h) (a : Addr) (be : BitVec 4) (i : SrcNum)
    (w : Bool) (d : Word) : exec (.hostAccessStart a be i w d) s = .next s := by
  refine congrArg Host.Outcome.next (if_pos ?_)
  rw [ha]
  exact Bool.or_true _

/-- A strobe with no access in the part: HERR is deasserted and the outcome of the classification applies (R58, R59). -/
theorem exec_hostAccessStart_of_none (hr : s.inReset = false) (ha : s.access = none) (a : Addr) (be : BitVec 4)
    (i : SrcNum) (w : Bool) (d : Word) :
    exec (.hostAccessStart a be i w d) s =
      .next ((State.settle { s with herr := false } ⟨⟨a, be, i, w, d⟩, .toMemory .forwarded, none⟩
        (s.classify ⟨a, be, i, w, d⟩)).arbitrate) := by
  refine congrArg Host.Outcome.next (if_neg ?_)
  rw [hr, ha]
  exact Bool.false_ne_true

/-- A refusal that is not counted touches the bus alone (R73, R127). -/
theorem State.refuse_of_uncounted {k : RefusalKind} (hk : k.group = none) (a : Access) :
    s.refuse a k = s.endRefused a k := by
  rw [State.refuse, State.report, hk]

theorem State.classify_of_ne_run (hm : s.mode ≠ .run) (a : Access) :
    s.classify a = .refused (if s.mode = .frozen then .frozen else .gated) := by
  unfold State.classify
  cases h : s.mode with
  | run => exact absurd h hm
  | gated | formatting | recovering | frozen => rfl

/-- Settles O17: a strobe settles the access by its classification, outcome by outcome; one while an access is in the part
is ignored. -/
theorem accessStartsAsClassified : Obligations.AccessStartsAsClassified := by
  refine ⟨fun s addr be i w d hr ha => ⟨fun hv => ?done, fun k hv => ?refused, fun hv hlim => ?hold, fun r hv => ?send⟩,
    fun s a be i w d hm => ⟨State.classify_of_ne_run hm _, fun hr ha => ?notRun⟩,
    fun s h a be i w d ha => ⟨rfl, exec_hostAccessStart_of_access ha a be i w d⟩⟩
  case done =>
    rw [exec_hostAccessStart_of_none hr ha, hv]
    exact congrArg (fun t : State => Host.Outcome.next (State.arbitrate { t with herr := false, lastEnding := some .done }))
      (State.with_access_none ha)
  case refused =>
    refine ⟨_, exec_hostAccessStart_of_none hr ha .., ?_⟩
    rw [hv]
    simp [State.settle]
  case hold =>
    rw [exec_hostAccessStart_of_none hr ha, hv]
    obtain ⟨n, hn⟩ := Nat.exists_eq_add_of_le' hlim
    rw [hn]
    dsimp only [State.settle, State.enterHold, Option.getD_none]
    rw [hn]
  case send => rw [exec_hostAccessStart_of_none hr ha, hv]; rfl
  case notRun =>
    rw [exec_hostAccessStart_of_none hr ha, State.classify_of_ne_run hm]
    dsimp only [State.settle]
    rw [State.refuse_of_uncounted (by split <;> rfl)]
    exact congrArg (fun t : State => Host.Outcome.next (State.arbitrate { t with
      herr := true, hd := if w then s.hd else 0#32,
      lastEnding := some (.refused (if s.mode = .frozen then .frozen else .gated)) })) (State.with_access_none ha)

/-! ### What ends a hold -/

section
variable {a : Access} {r : HoldReason} {l : Option Nat} (ha : s.access = some ⟨a, .held r, l⟩) {p : Report}
include ha

theorem State.deliver_of_clears (h : p.clears a r = true) :
    s.deliver p = s.settle ⟨a, .held r, l⟩ (s.classify a) := by
  rw [State.deliver, ha]
  exact if_pos h

theorem State.deliver_of_not_clears (h : p.clears a r = false) : s.deliver p = s := by
  rw [State.deliver, ha]
  exact if_neg (Bool.eq_false_iff.1 h)

end

/-- Settles O18: a report that clears the hold settles the access by its classification, with what is left of its hold
limit; any other leaves the state. -/
theorem reportsEndHolds : Obligations.ReportsEndHolds := by
  refine fun s a r l p ha => ⟨fun hclears => ?cleared, fun hkept => ?kept⟩
  case kept =>
    exact State.deliver_of_not_clears ha (Bool.eq_false_iff.2 fun h => hkept ((Report.clears_iff p a r).1 h))
  case cleared =>
    rw [State.deliver_of_clears ha ((Report.clears_iff p a r).2 hclears)]
    refine ⟨fun q hq => by rw [hq]; rfl, fun n hv hl => by rw [hv, hl]; rfl, fun hv => by rw [hv]; rfl, fun k hk => ?_⟩
    rcases hk with hv | ⟨hv, hl, rfl⟩
    · rw [hv]; simp [State.settle]
    · rw [hv, hl]; simp [State.settle, State.enterHold]

theorem exec_holdExpired_of_held {a : Access} {r : HoldReason} {l : Option Nat} (hm : s.mode = .run)
    (ha : s.access = some ⟨a, .held r, l⟩) :
    exec .holdExpired s = .next ((s.refuse a (.holdExpired r)).arbitrate) := by
  refine congrArg Host.Outcome.next ?_
  rw [hm, ha]

theorem exec_holdExpired_of_not_due (h : s.mode ≠ .run ∨ ∀ a r l, s.access ≠ some ⟨a, .held r, l⟩) :
    exec .holdExpired s = .next s := by
  refine congrArg Host.Outcome.next ?_
  split
  · next hm ha => exact absurd hm (h.resolve_right fun hn => hn _ _ _ ha)
  · rfl

theorem HoldReason.group_eq (r : HoldReason) : r.group = if r = .conflict then .conflict else .capacity := by
  cases r <;> rfl

/-- Settles O19: the refusal of a hold is counted in the group of its reason. -/
theorem holdExpiryRefuses : Obligations.HoldExpiryRefuses := by
  refine fun s => ⟨fun a r l hm ha => ⟨_, exec_holdExpired_of_held hm ha, ?_⟩, exec_holdExpired_of_not_due⟩
  have counted : ((s.refuse a (.holdExpired r)).arbitrate).counter a.src r.group =
      ((s.endRefused a (.holdExpired r)).count a.src r.group).counter a.src r.group :=
    State.counter_of_counters _ _ (State.arbitrate_counters _) ..
  rw [← HoldReason.group_eq, counted, State.count_counter, nextCount_eq]
  simp
  rfl

/-! ### Accounting -/

theorem State.report_of_group {k : RefusalKind} {g : Group} (h : k.group = some g) (i : SrcNum) :
    s.report i k = s.count i g := by
  rw [State.report, h]

theorem State.count_counter_ne {i j : SrcNum} {g h : Group} (hne : (j, h) ≠ (i, g)) :
    (s.count i g).counter j h = s.counter j h := by
  rw [State.counter_of_counters _ _ (State.count_counters s i g), State.setCounter_counter, if_neg]
  rintro ⟨rfl, rfl⟩
  exact hne rfl

/-- Settles O20: the group of the kind, and the one counter that `count` sets. -/
theorem refusalsAreCounted : Obligations.RefusalsAreCounted := by
  refine fun s i k => ⟨fun hk => ?uncounted, fun hgated hfrozen => ?counted⟩
  case uncounted => rcases hk with rfl | rfl <;> rfl
  case counted =>
    have hgroup : ∃ g, k.group = some g ∧
        (g = .conflict ↔ k = .conflict ∨ k = .lockedWord ∨ k = .holdExpired .conflict) ∧
        (g = .policy ↔ k = .journalWindow ∨ k = .readonly ∨ k = .noEpoch ∨ k = .fenced) := by
      cases k with
      | gated => exact absurd rfl hgated
      | frozen => exact absurd rfl hfrozen
      | holdExpired r => exact ⟨_, rfl, by cases r <;> simp [HoldReason.group]⟩
      | _ => exact ⟨_, rfl, by simp⟩
    obtain ⟨g, hg, hconflict, hpolicy⟩ := hgroup
    refine ⟨g, hconflict, hpolicy, ?_, fun j h hne => ?_⟩
    · rw [State.report_of_group hg, State.count_counter, nextCount_eq]
    · rw [State.report_of_group hg, State.count_counter_ne hne]

/-! ### Time -/

theorem State.tickIdle_eq (s : State) (c : CtxNum) :
    s.tickIdle c =
      match s.ctx c with
      | .active (.opened (some i)) e =>
        if i.us < 999 then s.setCtx c (.active (.opened (some ⟨i.ms, i.us + 1⟩)) e)
        else if 2 ≤ i.ms then s.setCtx c (.active (.opened (some ⟨i.ms - 1, 0⟩)) e)
        else (s.takeRollback c .idle).deliver ⟨some e.source, [], decide (s.claimsHeld c = 0)⟩
      | _ => s := by
  unfold State.tickIdle
  cases hc : s.ctx c with
  | free => rfl
  | active p e =>
    cases p with
    | committing | rollingBack | faulted | discarding => rfl
    | opened o =>
      cases o with
      | none => rfl
      | some i =>
        dsimp only
        by_cases hus : i.us < 999
        · rw [if_pos (by omega), if_pos hus]
        · rw [if_neg (by omega), if_neg hus]
          by_cases hms : 2 ≤ i.ms
          · rw [if_neg (by omega), if_pos hms]
          · rw [if_pos (by omega), if_neg hms, State.requestRollback_of_open hc]

section
variable {t : State} (h : s.aside = t.aside)
include h

theorem State.access_of_aside : s.access = t.access := show s.aside.access = t.aside.access by rw [h]
theorem State.herr_of_aside : s.herr = t.herr := show s.aside.herr = t.aside.herr by rw [h]
theorem State.hd_of_aside : s.hd = t.hd := show s.aside.hd = t.aside.hd by rw [h]
theorem State.lastEnding_of_aside : s.lastEnding = t.lastEnding := show s.aside.lastEnding = t.aside.lastEnding by rw [h]
theorem State.holder_of_aside : s.holder = t.holder := show s.aside.holder = t.aside.holder by rw [h]
theorem State.lastHolder_of_aside : s.lastHolder = t.lastHolder := show s.aside.lastHolder = t.aside.lastHolder by rw [h]
theorem State.grant_of_aside : s.grant = t.grant := show s.aside.grant = t.aside.grant by rw [h]
theorem State.job_of_aside : s.job = t.job := show s.aside.job = t.aside.job by rw [h]
theorem State.guards_of_aside : s.guards = t.guards := show s.aside.guards = t.aside.guards by rw [h]
theorem State.claims_of_aside : s.claims = t.claims := show s.aside.claims = t.aside.claims by rw [h]

end

/-- The idle timers count without an access in the part: they leave the bus (R59). -/
theorem State.tickIdle_aside (s : State) (c : CtxNum) (ha : s.access = none) : (s.tickIdle c).aside = s.aside := by
  unfold State.tickIdle
  split
  · split
    · rfl
    · split
      · have htaken := State.takeRollback_aside s c .idle
        have hnone : (s.takeRollback c .idle).access = none := (State.access_of_aside htaken).trans ha
        rw [State.requestRollback, State.deliver_none _ _ hnone, htaken]
      · rfl
  · rfl

theorem State.foldl_tickIdle_aside (l : List CtxNum) (s : State) (ha : s.access = none) :
    (l.foldl State.tickIdle s).aside = s.aside := by
  induction l generalizing s with
  | nil => rfl
  | cons c l ih =>
    have hfirst := s.tickIdle_aside c ha
    have hnone : (s.tickIdle c).access = none := (State.access_of_aside hfirst).trans ha
    exact (ih _ hnone).trans hfirst

theorem State.tickHold_of_not_running (h : ∀ a r n, s.access ≠ some ⟨a, .held r, some n⟩) : s.tickHold = s := by
  unfold State.tickHold
  split
  · next ha => exact absurd ha (h _ _ _)
  · rfl

theorem State.tickHold_of_running {a : Access} {r : HoldReason} {n : Nat} (ha : s.access = some ⟨a, .held r, some n⟩) :
    s.tickHold =
      if n ≤ 1 then s.refuse a (.holdExpired r) else { s with access := some ⟨a, .held r, some (n - 1)⟩ } := by
  rw [State.tickHold, ha]

theorem step_of_nil (h : s.pending = []) : step s = .next s.tick := by rw [step, h]

theorem State.tick_of_run (hm : s.mode = .run) (hr : s.inReset = false) :
    s.tick = (eight.foldl State.tickIdle s.tickHold).arbitrate := if_pos ⟨hm, hr⟩

/-- Settles O2: the tick is the hold timer, the idle timers in ascending order, and the arbiter; the idle timers leave a
bus whose access has just been refused. -/
theorem emptyQueueStepCountsTimers : Obligations.EmptyQueueStepCountsTimers := by
  refine fun s hp => ⟨fun hstill => ?still, fun hm hr => ?run⟩
  case still =>
    rw [step_of_nil hp, State.tick, if_neg]
    rintro ⟨hm, hr⟩
    exact hstill.elim (absurd hm) fun h => Bool.false_ne_true (hr.symm.trans h)
  case run =>
    intro idle counted
    have hidle : idle = State.tickIdle := (funext₂ State.tickIdle_eq).symm
    have hstep : step s = .next (counted s.tickHold) := by
      rw [step_of_nil hp, State.tick_of_run hm hr]
      exact congrArg (fun f => Host.Outcome.next (State.arbitrate (eight.foldl f s.tickHold))) hidle.symm
    refine ⟨fun hnone => ?_, fun a r n ha => ?_, fun a r n hn ha => ?_⟩
    · rw [hstep, State.tickHold_of_not_running hnone]
    · rw [hstep, State.tickHold_of_running ha, if_neg (by omega)]; rfl
    · rw [State.tickHold_of_running ha, if_pos hn] at hstep
      refine ⟨hstep, _, hstep, ?_⟩
      have hcounted : counted (s.refuse a (.holdExpired r)) =
          (eight.foldl State.tickIdle (s.refuse a (.holdExpired r))).arbitrate :=
        congrArg (fun f => State.arbitrate (eight.foldl f (s.refuse a (.holdExpired r)))) hidle
      have haside := State.foldl_tickIdle_aside eight (s.refuse a (.holdExpired r)) (State.refuse_access ..)
      have hmem : (counted (s.refuse a (.holdExpired r))).mem = s.mem := by
        have hfixed := State.tick_fixed s
        rw [State.tick_of_run hm hr, State.tickHold_of_running ha, if_pos hn, ← hcounted] at hfixed
        exact State.mem_of_fixed hfixed
      refine ⟨?_, ?_, ?_, hmem⟩
      · rw [hcounted, State.arbitrate_access]
        exact (State.access_of_aside haside).trans (State.refuse_access ..)
      · rw [hcounted, State.arbitrate_herr]
        exact (State.herr_of_aside haside).trans (State.refuse_herr ..)
      · rw [hcounted, State.arbitrate_lastEnding]
        exact (State.lastEnding_of_aside haside).trans (State.refuse_lastEnding ..)

/-! ### The threshold -/

theorem State.countBound_of_not_reached {i : SrcNum} {g : Group} (h : s.reaches i g = false) (b : Option CtxNum) :
    s.countBound i g b =
      s.setCounter i g ⟨nextCount (s.settings g).holdMode (s.counter i g).value, (s.counter i g).reached⟩ := by
  simp only [State.countBound, h, Bool.or_false, Bool.false_eq_true, if_false]

theorem State.countBound_of_reached {i : SrcNum} {g : Group} (h : s.reaches i g = true) (b : Option CtxNum) :
    s.countBound i g b = (s.setCounter i g
      ⟨nextCount (s.settings g).holdMode (s.counter i g).value, true⟩).thresholdReached i g b := by
  simp only [State.countBound, h, Bool.or_true, if_true]

theorem thresholdCode_eq (g : Group) (f r : Bool) :
    thresholdCode g f r =
      BitVec.ofNat 8 ((match g with | .conflict => 0 | .capacity => 1 | .policy => 2) + (if f then 4 else 0) +
        (if r then 8 else 0)) := by
  cases g <;> cases f <;> cases r <;> rfl

theorem State.ctx_raise (k c i d n a) (x : CtxNum) : (s.raise k c i d n a).ctx x = s.ctx x := by
  rw [State.ctx, State.raise_contexts]; rfl

theorem State.ctx_leaveOpen (c : CtxNum) (e : Epoch) (p : Phase) : (s.leaveOpen c e p).ctx c = .active p e :=
  (s.setCtx_ctx c c (.active p e)).trans (if_pos rfl)

theorem State.ctx_freeEmpty (c : CtxNum) (e : Epoch) : (s.freeEmpty c e).ctx c = .free :=
  ((s.returnSegs (e.chain.map (·.seg))).setCtx_ctx c c .free).trans (if_pos rfl)

/-- A rollback of an empty epoch and an event after it, when both kinds are enabled and the queue has room for both. -/
theorem State.events_takeRollback_raise {c : CtxNum} {t : Option Idle} {e : Epoch} (hc : s.ctx c = .active (.opened t) e)
    (hn : s.claimsHeld c = 0) (hroom : s.events.length < 31) (h2 : s.eventMask.getLsbD 2 = true) {k : EventKind}
    (hk : s.eventMask.getLsbD k.code = true) (cause : Cause) (x i d n a) :
    ((s.takeRollback c cause).raise k x i d n a).events = s.events ++
      [⟨.rolledBack, s.eventSeq, some c, some e.source, some cause.code, s.mode, 0#16, none⟩,
        ⟨k, s.eventSeq + 1#8, x, i, d, s.mode, n, a⟩] := by
  have hfirst := (State.takeRollback_of_empty hc hn cause).trans
    (State.raise_of_room (s := s.freeEmpty c e) h2 (Nat.lt_succ_of_lt hroom))
  have hevents : (s.takeRollback c cause).events = s.events ++
      [⟨.rolledBack, s.eventSeq, some c, some e.source, some cause.code, s.mode, 0#16, none⟩] := by rw [hfirst]; rfl
  have hseq : (s.takeRollback c cause).eventSeq = s.eventSeq + 1#8 := by rw [hfirst]; rfl
  have hmask : (s.takeRollback c cause).eventMask = s.eventMask := by rw [hfirst]; rfl
  have hmode : (s.takeRollback c cause).mode = s.mode := by rw [hfirst]; rfl
  have hlength : (s.takeRollback c cause).events.length < 32 := by rw [hevents, List.length_append]; exact Nat.succ_lt_succ hroom
  rw [State.raise_of_room (by rw [hmask]; exact hk) hlength]
  show (s.takeRollback c cause).events ++ [⟨k, (s.takeRollback c cause).eventSeq, x, i, d,
    (s.takeRollback c cause).mode, n, a⟩] = _
  rw [hevents, hseq, hmode]
  exact List.append_assoc ..

/-- What a FENCE action leaves (R131). -/
theorem State.fenced_fields (s : State) (i : SrcNum) (x : Source) (f : Bool) :
    let t := if f = true then s.setSource i x else s
    t.contexts = s.contexts ∧ t.claims = s.claims ∧ t.queue = s.queue ∧ t.events = s.events ∧ t.eventSeq = s.eventSeq ∧
      t.eventMask = s.eventMask ∧ t.mode = s.mode := by
  cases f <;> exact ⟨rfl, rfl, rfl, rfl, rfl, rfl, rfl⟩

/-- Settles O21: the branches of `countBound` and `thresholdReached`, and for ABORT the two cases of the request taken. -/
theorem thresholdActs : Obligations.ThresholdActs := by
  refine ⟨fun s i g => rfl, fun s i g b => ?_⟩
  intro v v' judged irq fence abort number
  have hnext : nextCount (s.settings g).holdMode (s.counter i g).value = v' := nextCount_eq ..
  refine ⟨fun hnot => ?below, fun hreached => ?reached⟩
  case below =>
    rw [State.countBound_of_not_reached (Bool.eq_false_iff.2 fun h => hnot ((s.reaches_iff i g).1 h)), hnext]
  case reached =>
    intro flagged stopped request undone code
    have heq : s.countBound i g b =
        (if irq then undone.raise .threshold request (some i) (some (BitVec.ofNat 8 code)) (v'.setWidth 16) none
         else undone) := by
      have hvalue : (flagged.counter i g).value = v' := by
        rw [State.setCounter_counter, if_pos ⟨rfl, rfl⟩]
      rw [State.countBound_of_reached ((s.reaches_iff i g).2 hreached), hnext]
      unfold State.thresholdReached
      dsimp only
      rw [hvalue, thresholdCode_eq]
      rfl
    refine ⟨heq, fun c t e habort hb hc => ?_⟩
    have hrequest : request = some c := (if_pos habort).trans hb
    have hundone : undone = stopped.takeRollback c .threshold := by simp only [undone, hrequest]
    obtain ⟨hcontexts, hclaims, hqueue, hevents, hseq, hmask, hmode⟩ :
        stopped.contexts = s.contexts ∧ stopped.claims = s.claims ∧ stopped.queue = s.queue ∧
          stopped.events = s.events ∧ stopped.eventSeq = s.eventSeq ∧ stopped.eventMask = s.eventMask ∧
          stopped.mode = s.mode := flagged.fenced_fields i _ fence
    have hopen : stopped.ctx c = .active (.opened t) e := by rw [State.ctx, hcontexts]; exact hc
    have hheld : stopped.claimsHeld c = s.claimsHeld c := by rw [State.claimsHeld, hclaims]; rfl
    refine ⟨fun hn => ?rolling, fun hn hirq h2 h6 hroom => ?empty⟩
    case rolling =>
      rw [heq, hundone, State.takeRollback_of_claims hopen (hheld ▸ hn)]
      have hleft : (stopped.leaveOpen c e (.rollingBack .threshold)).queue = s.queue ++ [⟨c, none⟩] := by
        rw [← hqueue]; rfl
      split
      · rw [State.ctx_raise, State.raise_queue, hleft]
        exact ⟨State.ctx_leaveOpen .., rfl⟩
      · exact ⟨State.ctx_leaveOpen .., hleft⟩
    case empty =>
      have hnone : stopped.claimsHeld c = 0 := hheld.trans hn
      rw [heq, if_pos hirq, hundone]
      refine ⟨?_, ?_⟩
      · rw [State.ctx_raise, State.takeRollback_of_empty hopen hnone, State.ctx_raise]
        exact State.ctx_freeEmpty ..
      · rw [State.events_takeRollback_raise hopen hnone (hevents ▸ hroom) (hmask ▸ h2) (k := .threshold) (hmask ▸ h6),
          hevents, hseq, hmode, hrequest]
        rfl

end Sys2Proof.Machine
end

section
/-! SUPPORT. How a grant row carries its grant: the row at the start of a grant, within one and at its end, and what its accesses do to memory and, by their marks, to the chip. -/

namespace Sys2Proof.Machine

variable {s : State}

/-! ### The rows -/

theorem State.freePort_eq_freed {r : Requester} (h : s.holder = some r) : s.freePort = s.freed r := by
  rw [State.freePort, h]; rfl

theorem State.grantRow_start {r : Requester} (hh : s.holder = some r) (hg : s.grant = none) (hm : s.mode ≠ .frozen)
    (mine : Task → Bool) (t : State) (x : Extent) : s.grantRow r mine (some t) x = t.afterStart x := by
  unfold State.grantRow
  rw [if_pos hh, hg]
  cases h : s.mode with
  | frozen => exact absurd h hm
  | gated | formatting | recovering | run => rfl

theorem State.grantRow_not_due {r : Requester} (hg : s.grant = none) (mine : Task → Bool) (x : Extent) :
    s.grantRow r mine none x = s := by
  unfold State.grantRow
  rw [hg]
  split
  · cases s.mode <;> rfl
  · rfl

theorem State.grantRow_frozen {r : Requester} (hg : s.grant = none) (hm : s.mode = .frozen) (mine : Task → Bool)
    (start : Option State) (x : Extent) : s.grantRow r mine start x = s := by
  unfold State.grantRow
  rw [hg, hm]
  split <;> rfl

theorem State.grantRow_mine {r : Requester} {y : Grant} (hh : s.holder = some r) (hg : s.grant = some y)
    {mine : Task → Bool} (hy : mine y.task = true) (start : Option State) (x : Extent) :
    s.grantRow r mine start x = s.advance x := by
  unfold State.grantRow
  rw [if_pos hh, hg]
  exact if_pos hy

theorem State.grantRow_other {r : Requester} {y : Grant} (hg : s.grant = some y) {mine : Task → Bool}
    (hy : mine y.task = false) (start : Option State) (x : Extent) : s.grantRow r mine start x = s := by
  unfold State.grantRow
  rw [hg]
  split
  · exact if_neg (Bool.eq_false_iff.1 hy)
  · rfl

/-- A grant with no access left ends (R76). -/
theorem State.advance_of_done {y : Grant} (hg : s.grant = some y) (ht : y.todo = []) :
    s.advance .toEnd = (s.finish y).arbitrate := by
  have hset : s.setTodo [] = s := by
    obtain ⟨task, todo, hits, late⟩ := y
    cases ht
    rw [State.setTodo, hg, Option.map_some, ← hg]
  unfold State.advance
  rw [hg]
  dsimp only
  rw [ht, hset, State.performAll, List.foldl_nil, State.finishGrant, hg]

/-- A grant just started, carried to its end: its accesses, and then the end of its task. -/
theorem State.startGrant_toEnd (t : Task) (plan : List PlannedOp) :
    (s.startGrant t plan).afterStart .toEnd = ((s.startGrant t []).performAll plan).finishGrant := rfl

theorem State.startGrant_accesses (t : Task) (plan : List PlannedOp) (n : Nat) :
    (s.startGrant t plan).afterStart (.accesses n) = (s.startGrant t (plan.drop n)).performAll (plan.take n) := rfl

theorem State.afterStart_of_ended (hg : s.grant = none) (x : Extent) : s.afterStart x = s.arbitrate := by
  rw [State.afterStart, hg]

/-! ### Host-path rows -/

theorem State.mode_of_send {a : Access} {r : Route} (h : s.classify a = .send r) : s.mode = .run := by
  by_contra hm
  rw [State.classify_of_ne_run hm] at h
  exact nomatch h

section
variable {a : Access} {r : Route} {l : Option Nat} (ha : s.access = some ⟨a, .toMemory r, l⟩)
include ha

theorem State.hostStart_of_fits {fits : Route → Bool → Bool} (hf : fits r a.write = true) :
    s.hostStart fits = some (s.startHost ⟨a, .toMemory r, l⟩ r) := by
  unfold State.hostStart
  rw [ha]
  exact if_pos hf

theorem State.hostRow_start {fits : Route → Bool → Bool} (hf : fits r a.write = true) (hh : s.holder = some .hp)
    (hg : s.grant = none) (hm : s.mode ≠ .frozen) (mine : Task → Bool) (x : Extent) :
    s.hostRow mine fits x = (s.startHost ⟨a, .toMemory r, l⟩ r).afterStart x := by
  rw [State.hostRow, State.hostStart_of_fits ha hf, State.grantRow_start hh hg hm]

end

theorem State.startHost_of_forwarded {h : HostAccess} (hv : s.classify h.acc = .send .forwarded) :
    s.startHost h .forwarded = s.startForwarded h := if_pos hv

theorem State.startHost_of_journalled {h : HostAccess} {c : CtxNum} {q : BitVec 16}
    (hv : s.classify h.acc = .send (.journalled c q)) :
    s.startHost h (.journalled c q) = s.startJournalled h c := if_pos hv

theorem State.startHost_of_changed {h : HostAccess} {r : Route} (hv : s.classify h.acc ≠ .send r) :
    s.startHost h r = s.freePort.settle h (s.classify h.acc) := if_neg hv

/-! ### Accesses and marks -/

/-- The marks of a plan, in order: what its accesses bring about on the chip. -/
def State.marks (s : State) (ps : List PlannedOp) : State := ps.foldl (fun t p => t.mark p.mark) s

theorem State.marks_append (ps qs : List PlannedOp) : s.marks (ps ++ qs) = (s.marks ps).marks qs := List.foldl_append

theorem State.performAll_append (ps qs : List PlannedOp) :
    s.performAll (ps ++ qs) = (s.performAll ps).performAll qs := List.foldl_append

theorem State.marks_recordWrites (t : State) (n k : Nat) (r : Record) (m : Mark) :
    s.marks (t.recordWrites n k r m) = s.mark m := rfl

theorem State.marks_slotReads (t : State) (n k : Nat) : s.marks (t.slotReads n k) = s := rfl

theorem State.marks_slotsReads (t : State) (seg k n : Nat) : s.marks (t.slotsReads seg k n) = s := by
  induction n generalizing k with
  | zero => rfl
  | succ n ih => rw [State.slotsReads, State.marks_append, State.marks_slotReads, ih]

/-- The same state with another memory. -/
def State.withMem (s : State) (m : List Host.Cell) : State := { s with mem := m }

variable (m : List Host.Cell)

theorem State.mapEpoch_withMem (c : CtxNum) (f : Epoch → Epoch) :
    (s.withMem m).mapEpoch c f = (s.mapEpoch c f).withMem m := by
  unfold State.mapEpoch
  change (match s.ctx c with | .free => s.withMem m | .active p e => (s.withMem m).setCtx c (.active p (f e))) = _
  cases s.ctx c <;> rfl

theorem State.evaluate_withMem (a : Addr) (v : Word) (w : Option CtxNum) (i : SrcNum) (b : Bool) (j : Fin 8) :
    (s.withMem m).evaluate a v w i b j = (s.evaluate a v w i b j).withMem m := by
  have hguard : (s.withMem m).guard j = s.guard j := rfl
  unfold State.evaluate
  dsimp only
  rw [hguard]
  split
  · cases (s.guard j).transition v with
    | none => rfl
    | some make =>
      dsimp only
      split <;> split <;> rfl
  · rfl

theorem State.evaluateAll_withMem (a : Addr) (v : Word) (w : Option CtxNum) (i : SrcNum) (b : Bool) :
    (s.withMem m).evaluateAll a v w i b = (s.evaluateAll a v w i b).withMem m := by
  have fold (l : List (Fin 8)) (t : State) : l.foldl (fun t j => t.evaluate a v w i b j) (t.withMem m) =
      (l.foldl (fun t j => t.evaluate a v w i b j) t).withMem m := by
    induction l generalizing t with
    | nil => rfl
    | cons j l ih => rw [List.foldl_cons, State.evaluate_withMem, ih, List.foldl_cons]
  exact fold eight s

/-- No mark reads memory. -/
theorem State.mark_withMem (k : Mark) : (s.withMem m).mark k = (s.mark k).withMem m := by
  cases k with
  | quiet | preimage => rfl
  | header | record | marker => exact State.mapEpoch_withMem ..
  | restored c a => exact State.mapEpoch_withMem (s := s.releaseClaim a c) ..
  | watched => exact State.evaluateAll_withMem ..

/-- The accesses of a grant: memory by its writes, and the chip by its marks. -/
theorem State.performAll_eq (s : State) (ps : List PlannedOp) :
    s.performAll ps = (s.marks ps).withMem (planMemory s.mem ps) := by
  induction ps generalizing s with
  | nil => rfl
  | cons p ps ih =>
    have hfirst : s.perform p = (s.mark p.mark).withMem (p.op.memory s.mem) := by
      rw [← State.mark_withMem]
      cases hp : p.op <;> (rw [State.perform, hp]; rfl)
    have hmarks : ((s.mark p.mark).withMem (p.op.memory s.mem)).marks ps =
        ((s.mark p.mark).marks ps).withMem (p.op.memory s.mem) := by
      clear ih hfirst
      generalize s.mark p.mark = t
      induction ps generalizing t with
      | nil => rfl
      | cons q ps ih => exact (congrArg (State.marks · ps) (State.mark_withMem ..)).trans (ih _)
    rw [State.performAll, List.foldl_cons, ← State.performAll, ih, hfirst, hmarks]
    rfl

end Sys2Proof.Machine
end

section
/-! SUPPORT. The evaluation of a write by the Guard Monitor: for one entry by the transition it makes, for all entries in ascending order, and the statement. -/

namespace Sys2Proof.Machine

/-! ### What a write means for one entry -/

/-- The transition that a write of the word `a`, with the merged new word, makes in an entry: MAKE is `true` (R121). -/
def Guard.moves (g : Guard) (a : Addr) (new : Word) : Option Bool :=
  if g.enable && g.addr == a then g.transition new else none

/-- The entry after the write. -/
def Guard.after (g : Guard) (a : Addr) (new : Word) : Guard := (g.moves a new).elim g g.moved

/-- The transition that the write adds to those the grant reports, if the trigger admits it (R121, R122). -/
def Guard.hit (g : Guard) (j : Fin 8) (a : Addr) (new : Word) (w : Option CtxNum) (i : SrcNum) (restore : Bool) :
    Option GuardHit :=
  (g.moves a new).bind fun make =>
    if g.trigger.admits make then some ⟨j, make, a, w, i, restore, g.requests w restore⟩ else none

/-- Whether a COMMIT sees the move at the end of the grant alone (R125, R126). -/
def Guard.late (g : Guard) (a : Addr) (new : Word) (restore : Bool) : Bool := (g.moves a new).elim false (· || restore)

theorem Guard.moves_eq (g : Guard) (a : Addr) (new : Word) :
    g.moves a new =
      if g.enable = true ∧ g.addr = a ∧ g.state = .isMatch ∧ ¬ g.agrees new = true then some false
      else if g.enable = true ∧ g.addr = a ∧ g.state = .isMismatch ∧ g.agrees new = true then some true else none := by
  unfold Guard.moves Guard.transition
  by_cases hwatch : g.enable = true ∧ g.addr = a
  · obtain ⟨he, ha⟩ := hwatch
    cases hstate : g.state <;> cases hagrees : g.agrees new <;> simp [he, ha]
  · rw [if_neg (by simpa using hwatch), if_neg fun h => hwatch ⟨h.1, h.2.1⟩, if_neg fun h => hwatch ⟨h.1, h.2.1⟩]

variable {s : State}

theorem State.setGuard_guard (i j : Fin 8) (x : Guard) :
    (s.setGuard i x).guard j = if j = i then x else s.guard j := by
  unfold State.guard State.setGuard
  simp only [Fin.getElem_fin, Vector.getElem_set, Fin.ext_iff, eq_comm]

theorem State.setGuard_self (j : Fin 8) : s.setGuard j (s.guard j) = s :=
  congrArg (fun v => { s with guards := v }) (Vector.set_getElem_self j.isLt)

section
variable {y : Grant} (hg : s.grant = some y) (a : Addr) (new : Word) (w : Option CtxNum) (i : SrcNum) (restore : Bool)
include hg

theorem State.addHit_eq (h : GuardHit) : s.addHit h = { s with grant := some { y with hits := y.hits ++ [h] } } := by
  rw [State.addHit, hg]; rfl

theorem State.addLate_eq (j : Fin 8) : s.addLate j = { s with grant := some { y with late := y.late ++ [j] } } := by
  rw [State.addLate, hg]; rfl

omit hg in
theorem State.evaluate_of_none {j : Fin 8} (hmoves : (s.guard j).moves a new = none) :
    s.evaluate a new w i restore j = s := by
  unfold Guard.moves at hmoves
  unfold State.evaluate
  dsimp only
  split
  · next hwatch => rw [if_pos hwatch] at hmoves; rw [hmoves]
  · rfl

omit hg in
theorem State.evaluate_of_some {j : Fin 8} {make : Bool} (hmoves : (s.guard j).moves a new = some make) :
    s.evaluate a new w i restore j =
      let moved := s.setGuard j ((s.guard j).moved make)
      let t := if make || restore then moved.addLate j else moved
      if (s.guard j).trigger.admits make then
        t.addHit ⟨j, make, a, w, i, restore, (s.guard j).requests w restore⟩
      else t := by
  unfold Guard.moves at hmoves
  unfold State.evaluate
  dsimp only
  split
  · next hwatch => rw [if_pos hwatch] at hmoves; rw [hmoves]
  · next hwatch => rw [if_neg hwatch] at hmoves; exact nomatch hmoves

/-- The evaluation of a write for one entry, in the grant `y`. -/
theorem State.evaluate_eq (j : Fin 8) :
    s.evaluate a new w i restore j = { s.setGuard j ((s.guard j).after a new) with
      grant := some { y with
        hits := y.hits ++ ((s.guard j).hit j a new w i restore).toList,
        late := y.late ++ if (s.guard j).late a new restore then [j] else [] } } := by
  cases hmoves : (s.guard j).moves a new with
  | none =>
    have hafter : (s.guard j).after a new = s.guard j := by rw [Guard.after, hmoves]; rfl
    have hhit : (s.guard j).hit j a new w i restore = none := by rw [Guard.hit, hmoves]; rfl
    have hlate : (s.guard j).late a new restore = false := by rw [Guard.late, hmoves]; rfl
    rw [State.evaluate_of_none _ _ _ _ _ hmoves, hafter, hhit, hlate, State.setGuard_self, Option.toList_none,
      List.append_nil, if_neg Bool.false_ne_true, List.append_nil, ← hg]
  | some make =>
    have hafter : (s.guard j).after a new = (s.guard j).moved make := by rw [Guard.after, hmoves]; rfl
    have hhit : (s.guard j).hit j a new w i restore = if (s.guard j).trigger.admits make then
        some ⟨j, make, a, w, i, restore, (s.guard j).requests w restore⟩ else none := by rw [Guard.hit, hmoves]; rfl
    have hlate : (s.guard j).late a new restore = (make || restore) := by rw [Guard.late, hmoves]; rfl
    rw [State.evaluate_of_some a new w i restore hmoves, hafter, hhit, hlate]
    have moving : (s.setGuard j ((s.guard j).moved make)).grant = some y := hg
    dsimp only
    by_cases hadmits : (s.guard j).trigger.admits make = true
    · rw [if_pos hadmits, if_pos hadmits, Option.toList_some]
      split
      · rw [State.addLate_eq moving, State.addHit_eq (y := { y with late := y.late ++ [j] }) rfl]
      · rw [State.addHit_eq moving, List.append_nil]
    · rw [if_neg hadmits, if_neg hadmits, Option.toList_none, List.append_nil]
      split
      · rw [State.addLate_eq moving]
      · rw [List.append_nil, ← moving]

theorem State.foldl_evaluate_eq (l : List (Fin 8)) (hl : l.Nodup) :
    let t := l.foldl (fun t j => t.evaluate a new w i restore j) s
    t = { s with
        guards := t.guards,
        grant := some { y with
          hits := y.hits ++ l.filterMap fun j => (s.guard j).hit j a new w i restore,
          late := y.late ++ l.filter fun j => (s.guard j).late a new restore } } ∧
      ∀ j, t.guard j = if j ∈ l then (s.guard j).after a new else s.guard j := by
  induction l generalizing s y with
  | nil =>
    refine ⟨?_, fun j => (if_neg List.not_mem_nil).symm⟩
    rw [List.filterMap_nil, List.filter_nil, List.append_nil, List.append_nil, ← hg]; rfl
  | cons k l ih =>
    obtain ⟨hk, hl⟩ := List.nodup_cons.1 hl
    have hfirst := State.evaluate_eq hg a new w i restore k
    have hother (j : Fin 8) (hj : j ≠ k) : (s.evaluate a new w i restore k).guard j = s.guard j := by
      rw [hfirst]; exact (State.setGuard_guard ..).trans (if_neg hj)
    have hthis : (s.evaluate a new w i restore k).guard k = (s.guard k).after a new := by
      rw [hfirst]; exact (State.setGuard_guard ..).trans (if_pos rfl)
    obtain ⟨hrest, hguard⟩ := ih (s := s.evaluate a new w i restore k) (by rw [hfirst]) hl
    have hhits : l.filterMap (fun j => ((s.evaluate a new w i restore k).guard j).hit j a new w i restore) =
        l.filterMap fun j => (s.guard j).hit j a new w i restore :=
      List.filterMap_congr fun j hj => by rw [hother j (by rintro rfl; exact hk hj)]
    have hlate : l.filter (fun j => ((s.evaluate a new w i restore k).guard j).late a new restore) =
        l.filter fun j => (s.guard j).late a new restore :=
      List.filter_congr fun j hj => by rw [hother j (by rintro rfl; exact hk hj)]
    rw [hhits, hlate] at hrest
    dsimp only [List.foldl_cons]
    refine ⟨hrest.trans ?_, fun j => (hguard j).trans ?_⟩
    · have hitsCons : ((s.guard k).hit k a new w i restore).toList ++
          l.filterMap (fun j => (s.guard j).hit j a new w i restore) =
          (k :: l).filterMap fun j => (s.guard j).hit j a new w i restore := by
        rw [List.filterMap_cons]
        cases (s.guard k).hit k a new w i restore <;> rfl
      have lateCons : (if (s.guard k).late a new restore then [k] else []) ++
          l.filter (fun j => (s.guard j).late a new restore) =
          (k :: l).filter fun j => (s.guard j).late a new restore := by
        rw [List.filter_cons]
        split <;> rfl
      rw [List.append_assoc, List.append_assoc, hitsCons, lateCons, hfirst]
      rfl
    · rcases eq_or_ne j k with rfl | hj
      · rw [if_neg hk, if_pos List.mem_cons_self, hthis]
      · rw [hother j hj]
        exact if_congr (by rw [List.mem_cons, or_iff_right hj]) rfl rfl

end

/-! ### The statement -/

theorem Guard.requests_eq (g : Guard) (w : Option CtxNum) (restore : Bool) :
    g.requests w restore = (!restore && decide (g.action = .rollbackWriter) && w.isSome &&
      (decide (g.bound = none) || decide (g.bound = w))) := by
  have hbound : g.bound.isNone = decide (g.bound = none) := by cases g.bound <;> rfl
  rw [Guard.requests, hbound, beq_eq_decide, beq_eq_decide]

theorem Trigger.admits_iff (t : Trigger) (make : Bool) :
    t.admits make = true ↔ t = .onBoth ∨ (t = .onMake ∧ make = true) ∨ (t = .onBreak ∧ make = false) := by
  cases t <;> cases make <;> decide

theorem Guard.moves_of_still {g : Guard} {a : Addr} {new : Word}
    (h : g.enable = false ∨ g.addr ≠ a ∨ g.state = .unarmed ∨ g.state = .arming ∨
      (g.state = .isMatch ∧ g.agrees new = true) ∨ (g.state = .isMismatch ∧ ¬ g.agrees new = true)) :
    g.moves a new = none := by
  rw [Guard.moves_eq, if_neg, if_neg]
  · rintro ⟨he, ha, hs, hagrees⟩
    simp [he, ha, hs, hagrees] at h
  · rintro ⟨he, ha, hs, hagrees⟩
    simp [he, ha, hs, hagrees] at h

theorem Guard.moves_of_move {g : Guard} {a : Addr} {new : Word} {make : Bool} (he : g.enable = true) (ha : g.addr = a)
    (h : (make = false ∧ g.state = .isMatch ∧ ¬ g.agrees new = true) ∨
      (make = true ∧ g.state = .isMismatch ∧ g.agrees new = true)) : g.moves a new = some make := by
  rw [Guard.moves_eq]
  rcases h with ⟨rfl, hs, hagrees⟩ | ⟨rfl, hs, hagrees⟩
  · exact if_pos ⟨he, ha, hs, hagrees⟩
  · exact (if_neg fun h => h.2.2.2 hagrees).trans (if_pos ⟨he, ha, hs, hagrees⟩)

/-- The evaluation for an entry that the write moves. -/
theorem State.evaluate_of_move {y : Grant} (hg : s.grant = some y) {a : Addr} {new : Word} {j : Fin 8} {make : Bool}
    (hmoves : (s.guard j).moves a new = some make) (w : Option CtxNum) (i : SrcNum) (restore : Bool) :
    s.evaluate a new w i restore j = { s.setGuard j ((s.guard j).moved make) with
      grant := some { y with
        hits := if (s.guard j).trigger.admits make then
          y.hits ++ [⟨j, make, a, w, i, restore, (s.guard j).requests w restore⟩] else y.hits,
        late := if make = true ∨ restore = true then y.late ++ [j] else y.late } } := by
  rw [State.evaluate_of_some a new w i restore hmoves]
  have moving : (s.setGuard j ((s.guard j).moved make)).grant = some y := hg
  have hlate : (make || restore) = true ↔ make = true ∨ restore = true := Bool.or_eq_true_iff
  dsimp only
  by_cases h : make = true ∨ restore = true
  · rw [if_pos (hlate.2 h), if_pos h, State.addLate_eq moving]
    split
    · rw [State.addHit_eq (y := { y with late := y.late ++ [j] }) rfl]
    · rfl
  · rw [if_neg fun e => h (hlate.1 e), if_neg h]
    split
    · rw [State.addHit_eq moving]
    · rw [← moving]

/-- Settles O34: the transition of one entry decides its evaluation, and the entries are evaluated on their own. -/
theorem guardEvaluation : Obligations.GuardEvaluation := by
  refine ⟨fun s y a new w i restore j hg => ?one, fun s y a new w i restore hg => ?all⟩
  case one =>
    intro g same
    have hsame : g.agrees new = true ↔ same := Guard.agrees_iff g new
    refine ⟨fun h => ?_, fun hs h => ?_, fun hs h => ?_, fun make he ha h => ?_⟩
    · exact State.evaluate_of_none _ _ _ _ _ (Guard.moves_of_still (by tauto))
    · exact State.evaluate_of_none _ _ _ _ _ (Guard.moves_of_still (by rw [hsame]; tauto))
    · exact State.evaluate_of_none _ _ _ _ _ (Guard.moves_of_still (by rw [hsame]; tauto))
    · have hmoves : g.moves a new = some make := Guard.moves_of_move he ha (by rw [hsame]; exact h)
      have heq := State.evaluate_of_move hg hmoves w i restore
      intro moved late request
      refine ⟨fun hkept => ?_, fun hadmits => ?_⟩
      · have hrefused : ¬ g.trigger.admits make = true := by
          rw [Trigger.admits_iff]
          rcases hkept with ⟨rfl, ht⟩ | ⟨rfl, ht⟩ <;> simp [ht]
        rw [heq, if_neg hrefused]; rfl
      · rw [heq, if_pos ((Trigger.admits_iff ..).2 (by tauto)), Guard.requests_eq]; rfl
  case all =>
    intro all move hit late
    have hmove (j : Fin 8) : move j = (s.guard j).moves a new := by
      rw [Guard.moves_eq]
      simp only [move, Guard.agrees, beq_iff_eq]
    have hhit : hit = fun j => (s.guard j).hit j a new w i restore := by
      funext j
      simp only [hit, hmove, Guard.hit, Guard.requests_eq, Trigger.admits_iff]
      cases (s.guard j).moves a new <;> rfl
    have hlate : late = fun j => (s.guard j).late a new restore := by
      funext j
      simp only [late, hmove, Guard.late]
      cases (s.guard j).moves a new <;> rfl
    obtain ⟨heq, hguard⟩ := State.foldl_evaluate_eq hg a new w i restore eight eight_nodup
    refine ⟨_, rfl, ?_, fun j => (hguard j).trans ?_⟩
    · rw [hhit, hlate]; exact heq
    · rw [if_pos (eight_mem j), hmove, Guard.after]
      cases (s.guard j).moves a new <;> rfl

end Sys2Proof.Machine
end

section
/-! SUPPORT. Guard arming, forwarded reads and forwarded writes: the grants carried to their ends, and the statements. -/

namespace Sys2Proof.Machine

variable {s : State}

/-! ### Guard arming -/

theorem State.finishGrant_of_grant {y : Grant} (hg : s.grant = some y) : s.finishGrant = (s.finish y).arbitrate := by
  rw [State.finishGrant, hg]

theorem exec_armingRead_of_first {i : Fin 8} (hh : s.holder = some .ga) (hg : s.grant = none) (hm : s.mode ≠ .frozen)
    (hi : s.firstArming = some i) :
    exec (.armingRead .toEnd) s =
      .next (((s.freed .ga).setGuard i ((s.guard i).armed (s.word (s.guard i).addr))).arbitrate) := by
  refine congrArg Host.Outcome.next ((State.grantRow_start hh hg hm _ _ _).trans ?_)
  rw [State.startArming, hi, ← State.freePort_eq_freed hh]
  rfl

theorem exec_armingRead_of_unwanted {i : Fin 8} {y : Grant} (hh : s.holder = some .ga) (hg : s.grant = some y)
    (ht : y.task = .armingRead i false) (hdone : y.todo = []) :
    exec (.armingRead .toEnd) s = .next ((s.freed .ga).arbitrate) := by
  refine congrArg Host.Outcome.next ((State.grantRow_mine hh hg (by rw [ht]) _ _).trans ?_)
  rw [State.advance_of_done hg hdone, State.finish, ht, ← State.freePort_eq_freed hh]
  rfl

theorem Guard.armed_of_agrees {g : Guard} {v : Word} (h : g.agrees v = true) :
    g.armed v = { g with state := .isMatch } := by
  rw [Guard.armed, if_pos h]

theorem Guard.armed_of_not_agrees {g : Guard} {v : Word} (h : ¬ g.agrees v = true) :
    g.armed v = { g with state := .isMismatch } := by
  rw [Guard.armed, if_neg h]

/-- Settles O33: the grant reads the lowest entry that is ARMING, and `agrees_iff` says what it becomes. -/
theorem armingReadDecidesState : Obligations.ArmingReadDecidesState := by
  refine ⟨fun s i hh hg hm hi hlow => ?_, fun s i y => exec_armingRead_of_unwanted⟩
  have hexec := exec_armingRead_of_first hh hg hm (s.firstArming_some i hi hlow)
  intro seen same
  have hsame : (s.guard i).agrees seen = true ↔ same := Guard.agrees_iff ..
  refine ⟨fun h => ?_, fun h => ?_⟩
  · rw [hexec, Guard.armed_of_agrees (hsame.2 h)]
  · rw [hexec, Guard.armed_of_not_agrees fun e => h (hsame.1 e)]

/-! ### Forwarded reads -/

section
variable {a : Access} {l : Option Nat} (hh : s.holder = some .hp) (hg : s.grant = none)
  (ha : s.access = some ⟨a, .toMemory .forwarded, l⟩) (hv : s.classify a = .send .forwarded)
include hh hg ha hv

theorem exec_forwardedRead_start (hw : a.write = false) (x : Extent) :
    exec (.forwardedRead x) s =
      .next ((s.startGrant (.forwardedRead a) [(PortOp.read a.addr).plain]).afterStart x) := by
  refine congrArg Host.Outcome.next ((State.hostRow_start ha (by rw [hw]; rfl) hh hg ?_ _ _).trans ?_)
  · rw [State.mode_of_send hv]; nofun
  · rw [State.startHost_of_forwarded hv, State.startForwarded, hw]; rfl

/-- A forwarded write begins with the accesses of its plan: a read of a watched word, and the write (R67). -/
theorem exec_forwardedWrite_start (hw : a.write = true) (x : Extent) :
    exec (.forwardedWrite x) s =
      .next ((s.startGrant (.forwardedWrite a (s.ownContext a))
        ((if s.watches a.addr then [(PortOp.read a.addr).plain] else []) ++
          [s.hostWrite a (s.ownContext a)])).afterStart x) := by
  refine congrArg Host.Outcome.next ((State.hostRow_start ha (by rw [hw]; rfl) hh hg ?_ _ _).trans ?_)
  · rw [State.mode_of_send hv]; nofun
  · rw [State.startHost_of_forwarded hv, State.startForwarded]
    dsimp only
    rw [if_pos hw]

end

/-- Settles O36: the grant has one read, and its end puts the word on HD. -/
theorem forwardedReadReturnsWord : Obligations.ForwardedReadReturnsWord := by
  intro s a l hh hg ha hw hv
  rw [exec_forwardedRead_start hh hg ha hv hw, ← State.freePort_eq_freed hh]
  rfl

/-! ### Forwarded writes -/

theorem State.watches_iff (a : Addr) :
    s.watches a = true ↔ ∃ i, (s.guard i).enable = true ∧ (s.guard i).addr = a := by
  refine List.any_eq_true.trans ?_
  simp only [Bool.and_eq_true, beq_iff_eq, eight_mem, true_and]

theorem State.watches_false {a : Addr} (h : ∀ i, (s.guard i).enable = true → (s.guard i).addr ≠ a) :
    s.watches a = false :=
  Bool.eq_false_iff.2 fun hw => by
    obtain ⟨i, he, ha⟩ := (State.watches_iff a).1 hw
    exact h i he ha

theorem State.ownContext_of_unclaimed {a : Access} (ho : s.owner a.addr = none) : s.ownContext a = none := by
  rw [State.ownContext, ho]
  cases a.write <;> rfl

theorem State.ownContext_of_bound {a : Access} {c : CtxNum} (hw : a.write = true) (ho : s.owner a.addr = some c)
    (hb : (s.source a.src).bound = some c) : s.ownContext a = some c := by
  rw [State.ownContext, ho, hb, hw, beq_self_eq_true]
  rfl

/-- The enabled bytes of the written word take the data (R67). -/
theorem Memory.byte_putWord_self (m : List Host.Cell) (a : Addr) (be : BitVec 4) (w : Word) {i : Nat} (hi : i < 4) :
    Memory.byte (Memory.putWord m a be w) (byteKey a i) =
      if be.getLsbD i then byteOf w i else Memory.byte m (byteKey a i) := by
  rw [Memory.byte_putWord _ _ _ _ _ _ hi]
  simp

/-- What the mark of a host write does: the evaluation when the word is watched, with the word that the write leaves in
memory (R67, R121). -/
def State.watchHost (s : State) (m : List Host.Cell) (a : Access) (writer : Option CtxNum) (watched : Bool) : State :=
  if watched then s.evaluateAll a.addr (Memory.word m a.addr) writer a.src false else s

theorem State.mark_hostWrite (t : State) (a : Access) (writer : Option CtxNum) :
    t.mark (s.hostWrite a writer).mark =
      t.watchHost (Memory.putWord s.mem a.addr a.be a.data) a writer (s.watches a.addr) := by
  unfold State.hostWrite State.watchHost
  rw [Memory.word_putWord_self]
  cases s.watches a.addr <;> rfl

/-- The accesses of a forwarded write: the word is stored and the write evaluated. -/
theorem State.performAll_forwardedPlan (t : State) (ht : t.mem = s.mem) (a : Access) (writer : Option CtxNum) :
    t.performAll ((if s.watches a.addr then [(PortOp.read a.addr).plain] else []) ++ [s.hostWrite a writer]) =
      (t.watchHost (Memory.putWord s.mem a.addr a.be a.data) a writer (s.watches a.addr)).withMem
        (Memory.putWord s.mem a.addr a.be a.data) := by
  rw [State.performAll_eq, State.marks_append, planMemory_append, ht, ← State.mark_hostWrite]
  split <;> rfl

/-! ### The end of a grant with guard transitions -/

theorem State.requestRollback_aside (ha : s.access = none) (c : CtxNum) (k : Cause) :
    (s.requestRollback c k).aside = s.aside := by
  have htaken := State.takeRollback_aside s c k
  rw [State.requestRollback, State.deliver_none _ _ ((State.access_of_aside htaken).trans ha), htaken]

theorem State.requestRollback_counters (ha : s.access = none) (c : CtxNum) (k : Cause) :
    (s.requestRollback c k).counters = s.counters := by
  rw [State.requestRollback, State.deliver_none _ _ ((State.access_of_aside (State.takeRollback_aside s c k)).trans ha),
    State.takeRollback_counters]

/-- What the events and the requests at the end of a grant leave, with no access in the part: the bus, the port, the job,
the guards, the claims and the counters. -/
structure HitsKept (s t : State) : Prop where
  aside : t.aside = s.aside
  counters : t.counters = s.counters

theorem State.reportHits_kept (ha : s.access = none) (l : List GuardHit) : HitsKept s (s.reportHits l) := by
  have raised (l : List GuardHit) (t : State) : HitsKept t (l.foldl State.raiseHit t) := by
    induction l generalizing t with
    | nil => exact ⟨rfl, rfl⟩
    | cons h l ih =>
      have hrest := ih (t.raiseHit h)
      exact ⟨hrest.aside.trans (State.raise_aside ..), hrest.counters.trans (State.raise_counters ..)⟩
  have requested (l : List GuardHit) (t : State) (ht : t.access = none) : HitsKept t (l.foldl State.requestHit t) := by
    induction l generalizing t with
    | nil => exact ⟨rfl, rfl⟩
    | cons h l ih =>
      have hfirst : HitsKept t (t.requestHit h) := by
        unfold State.requestHit
        split
        · exact ⟨State.requestRollback_aside ht .., State.requestRollback_counters ht ..⟩
        · exact ⟨rfl, rfl⟩
      have hrest := ih (t.requestHit h) ((State.access_of_aside hfirst.aside).trans ht)
      exact ⟨hrest.aside.trans hfirst.aside, hrest.counters.trans hfirst.counters⟩
  have hraised := raised l s
  have hrequested := requested l _ ((State.access_of_aside hraised.aside).trans ha)
  exact ⟨hrequested.aside.trans hraised.aside, hrequested.counters.trans hraised.counters⟩

/-- Transitions of a write by no context make no request (R124). -/
theorem State.reportHits_contexts {l : List GuardHit} (h : ∀ x ∈ l, x.ctx = none) :
    (s.reportHits l).contexts = s.contexts := by
  have raised (l : List GuardHit) (t : State) : (l.foldl State.raiseHit t).contexts = t.contexts := by
    induction l generalizing t with
    | nil => rfl
    | cons x l ih => exact (ih _).trans (State.raise_contexts ..)
  have still (l : List GuardHit) (h : ∀ x ∈ l, x.ctx = none) (t : State) : l.foldl State.requestHit t = t := by
    induction l generalizing t with
    | nil => rfl
    | cons x l ih =>
      have hx : t.requestHit x = t := by
        unfold State.requestHit
        rw [h x List.mem_cons_self]
        cases x.request <;> rfl
      rw [List.foldl_cons, hx]
      exact ih (fun z hz => h z (List.mem_cons_of_mem _ hz)) t
  rw [State.reportHits, still l h, raised]

theorem State.reloadIdle_counters (c : CtxNum) : (s.reloadIdle c).counters = s.counters := by
  unfold State.reloadIdle
  split
  · split <;> rfl
  · rfl

/-- The grant's record and the guards after the evaluation of a host write. -/
theorem State.watchHost_eq {y : Grant} (hg : s.grant = some y) (m : List Host.Cell) (a : Access) (w : Option CtxNum)
    (watched : Bool) :
    ∃ hits late guards, s.watchHost m a w watched =
        { s with guards := guards, grant := some { y with hits := y.hits ++ hits, late := y.late ++ late } } ∧
      (∀ h ∈ hits, h.ctx = w) ∧ (watched = false → guards = s.guards ∧ hits = [] ∧ late = []) := by
  cases watched with
  | false =>
    refine ⟨[], [], s.guards, ?_, fun _ h => absurd h List.not_mem_nil, fun _ => ⟨rfl, rfl, rfl⟩⟩
    rw [List.append_nil, List.append_nil, ← hg]; rfl
  | true =>
    obtain ⟨heq, -⟩ := State.foldl_evaluate_eq hg a.addr (Memory.word m a.addr) w a.src false eight eight_nodup
    refine ⟨_, _, _, heq, fun h hh => ?_, fun hf => nomatch hf⟩
    obtain ⟨j, -, hj⟩ := List.mem_filterMap.1 hh
    unfold Guard.hit at hj
    obtain ⟨make, -, hmake⟩ := Option.bind_eq_some_iff.1 hj
    split at hmake
    · cases hmake; rfl
    · exact nomatch hmake

/-- The reload of the writer's own idle timer at the end of a forwarded write (R67). -/
def State.reloadFor (s : State) (o : Option CtxNum) : State :=
  match o with
  | some c => s.reloadIdle c
  | none => s

theorem State.finishWrite_eq (hh : s.holder = some .hp) (o : Option CtxNum) (l : List GuardHit) :
    s.finishWrite o l = ((s.freed .hp).endDone.reloadFor o).reportHits l := by
  rw [← State.freePort_eq_freed hh]
  cases o <;> rfl

theorem State.reloadFor_kept (o : Option CtxNum) : HitsKept s (s.reloadFor o) := by
  cases o with
  | none => exact ⟨rfl, rfl⟩
  | some c => exact ⟨State.reloadIdle_aside .., State.reloadIdle_counters ..⟩

section
variable {a : Access} {l : Option Nat} (hh : s.holder = some .hp) (hg : s.grant = none)
  (ha : s.access = some ⟨a, .toMemory .forwarded, l⟩) (hv : s.classify a = .send .forwarded) (hw : a.write = true)
include hh hg ha hv hw

/-- A forwarded write carried to its end: the word stored, the guards evaluated, the access DONE, the timer reloaded, and
the transitions reported (R67, R122). -/
theorem exec_forwardedWrite_toEnd :
    ∃ hits guards, exec (.forwardedWrite .toEnd) s =
        .next (((({ s.freed .hp with
          mem := Memory.putWord s.mem a.addr a.be a.data, guards := guards } : State).endDone.reloadFor
            (s.ownContext a)).reportHits hits).arbitrate) ∧
      (∀ h ∈ hits, h.ctx = s.ownContext a) ∧ (s.watches a.addr = false → guards = s.guards ∧ hits = []) := by
  have hstart := exec_forwardedWrite_start hh hg ha hv hw .toEnd
  obtain ⟨hits, late, guards, heq, hctx, hstill⟩ :=
    State.watchHost_eq (s := s.startGrant (.forwardedWrite a (s.ownContext a)) []) rfl
      (Memory.putWord s.mem a.addr a.be a.data) a (s.ownContext a) (s.watches a.addr)
  refine ⟨hits, guards, ?_, hctx, fun hf => ⟨(hstill hf).1, (hstill hf).2.1⟩⟩
  have hcarried : (s.startGrant (.forwardedWrite a (s.ownContext a)) []).performAll
        ((if s.watches a.addr then [(PortOp.read a.addr).plain] else []) ++ [s.hostWrite a (s.ownContext a)]) =
      { s with
        mem := Memory.putWord s.mem a.addr a.be a.data, guards := guards,
        grant := some ⟨.forwardedWrite a (s.ownContext a), [], hits, late⟩ } := by
    rw [State.performAll_forwardedPlan (s := s) (s.startGrant (.forwardedWrite a (s.ownContext a)) []) rfl a
      (s.ownContext a), heq]
    rfl
  rw [hstart, State.startGrant_toEnd, hcarried, State.finishGrant_of_grant rfl]
  exact congrArg (fun u : State => Host.Outcome.next u.arbitrate) (State.finishWrite_eq (s := { s with
    mem := Memory.putWord s.mem a.addr a.be a.data, guards := guards,
    grant := some ⟨.forwardedWrite a (s.ownContext a), [], hits, late⟩ }) hh _ _)

end

/-- A timer reloaded with IDLELIM 0 stands (R12). -/
theorem State.reloadIdle_eq {c : CtxNum} {i : Option Idle} {e : Epoch} (hc : s.ctx c = .active (.opened i) e) :
    s.reloadIdle c =
      s.setCtx c (.active (.opened (if s.limits.idlelim = 0 then i else some ⟨s.limits.idlelim, 0⟩)) e) := by
  by_cases h : s.limits.idlelim = 0
  · rw [State.reloadIdle_of_zero hc h, if_pos h, ← hc]
    exact (congrArg (fun v => { s with contexts := v }) (Vector.set_getElem_self c.isLt)).symm
  · rw [State.reloadIdle_of_ne_zero hc h, if_neg h]

/-- Settles O37: the one write of the grant, the end of the access, and of the rest what the guards' transitions leave. -/
theorem forwardedWriteStoresBytes : Obligations.ForwardedWriteStoresBytes := by
  intro s a l hh hg ha hw hv
  obtain ⟨hits, guards, heq, hctx, hstill⟩ := exec_forwardedWrite_toEnd hh hg ha hv hw
  refine ⟨Memory.putWord s.mem a.addr a.be a.data, _, heq, ?_⟩
  generalize hended : (({ s.freed .hp with
    mem := Memory.putWord s.mem a.addr a.be a.data, guards := guards } : State)).endDone = ended at heq ⊢
  have hreload := ended.reloadFor_kept (s.ownContext a)
  have haccess : (ended.reloadFor (s.ownContext a)).access = none :=
    (State.access_of_aside hreload.aside).trans (by rw [← hended]; rfl)
  have hhits := State.reportHits_kept haccess hits
  have haside := hhits.aside.trans hreload.aside
  have hfixed : ((ended.reloadFor (s.ownContext a)).reportHits hits).fixed = ended.fixed := by
    rw [State.reportHits_fixed]
    cases s.ownContext a with
    | none => rfl
    | some c => exact State.reloadIdle_fixed ..
  refine ⟨?mem, fun i hi => Memory.byte_putWord_self _ _ _ _ hi,
    Memory.sameOutside_putWord _ _ _ _ List.mem_cons_self, ?access, ?herr, ?hd, ?ending, ?claims, ?job, ?counters, ?mode,
    ?last, ?grant, fun c e p hc ho => ?contexts, fun hquiet => ?whole⟩
  case mem => rw [State.arbitrate_mem, State.mem_of_fixed hfixed, ← hended]; rfl
  case access => rw [State.arbitrate_access, State.access_of_aside haside, ← hended]; rfl
  case herr => rw [State.arbitrate_herr, State.herr_of_aside haside, ← hended]; rfl
  case hd => rw [State.arbitrate_hd, State.hd_of_aside haside, ← hended]; rfl
  case ending => rw [State.arbitrate_lastEnding, State.lastEnding_of_aside haside, ← hended]; rfl
  case claims => rw [State.arbitrate_claims, State.claims_of_aside haside, ← hended]; rfl
  case job => rw [State.arbitrate_job, State.job_of_aside haside, ← hended]; rfl
  case counters => rw [State.arbitrate_counters, hhits.counters, hreload.counters, ← hended]; rfl
  case mode => rw [State.arbitrate_mode, State.mode_of_fixed hfixed, ← hended]; rfl
  case last => rw [State.arbitrate_lastHolder, State.lastHolder_of_aside haside, ← hended]; rfl
  case grant => rw [State.arbitrate_grant, State.grant_of_aside haside, ← hended]; rfl
  case contexts =>
    rw [State.ownContext_of_unclaimed ho] at hctx ⊢
    rw [State.ctx, State.arbitrate_contexts, State.reportHits_contexts hctx, ← hended]
    exact hc
  case whole =>
    obtain ⟨rfl, rfl⟩ := hstill (State.watches_false hquiet)
    refine ⟨fun ho => ?_, fun c e i ho hb hc => ?_⟩
    · rw [State.ownContext_of_unclaimed ho, ← hended]; rfl
    · rw [State.ownContext_of_bound hw ho hb]
      have hopen : ended.ctx c = .active (.opened i) e := by rw [← hended]; exact hc
      have hlimits : ended.limits = s.limits := by rw [← hended]; rfl
      show (State.reportHits (ended.reloadIdle c) []).arbitrate = _
      rw [State.reloadIdle_eq hopen, hlimits, ← hended]
      rfl

end Sys2Proof.Machine
end

section
/-! SUPPORT. The start step of a journalled write: its capacity checks, and the outcomes that end the grant at once. -/

namespace Sys2Proof.Machine

variable {s : State}

/-! ### The start step -/

theorem State.write_of_send_journalled {a : Access} {c : CtxNum} {q : BitVec 16}
    (hv : s.classify a = .send (.journalled c q)) : a.write = true := by
  by_contra hw
  rw [State.classify_read (State.mode_of_send hv) (Bool.eq_false_iff.2 hw)] at hv
  split at hv
  · exact nomatch hv
  · unfold State.classifyRead at hv
    split at hv <;> exact nomatch hv

section
variable {a : Access} {l : Option Nat} {c : CtxNum} {q : BitVec 16} (hh : s.holder = some .hp) (hg : s.grant = none)
  (ha : s.access = some ⟨a, .toMemory (.journalled c q), l⟩) (hv : s.classify a = .send (.journalled c q))
include hh hg ha hv

theorem exec_journalledWrite_start (x : Extent) :
    exec (.journalledWriteGrant x) s =
      .next ((s.startJournalled ⟨a, .toMemory (.journalled c q), l⟩ c).afterStart x) := by
  refine congrArg Host.Outcome.next ((State.hostRow_start ha rfl hh hg ?_ _ _).trans ?_)
  · rw [State.mode_of_send hv]; nofun
  · rw [State.startHost_of_journalled hv]

end

section
variable {c : CtxNum} {p : Phase} {e : Epoch} (hc : s.ctx c = .active p e) (h : HostAccess)
include hc

theorem State.startJournalled_of_shortage {q : Shortage} (hq : s.shortage c e = some q) :
    s.startJournalled h c = s.freePort.capacityOutcome h c q := by
  simp only [State.startJournalled, hc, Context.epoch, hq]

theorem State.startJournalled_of_fits (hq : s.shortage c e = none) :
    s.startJournalled h c = ((s.insertClaim h.acc.addr c).extendChain c e).startGrant
      (.journalledWrite (s.working h.acc c e)) (s.journalPlan (s.working h.acc c e) h.acc) := by
  simp only [State.startJournalled, hc, Context.epoch, hq]

end

/-! ### The capacity checks (R49) -/

theorem State.shortage_cases (c : CtxNum) (e : Epoch) :
    (s.shortage c e = some .claimFull ∧ 512 ≤ s.claims.length) ∨
    (s.shortage c e = some .quota ∧ s.claims.length < 512 ∧
      (s.limits.qclm ≤ s.claimsHeld c ∨ (15 ≤ e.fill ∧ s.limits.qseg ≤ e.chain.length))) ∨
    (s.shortage c e = some .journalFull ∧ s.claims.length < 512 ∧ s.claimsHeld c < s.limits.qclm ∧ 15 ≤ e.fill ∧
      e.chain.length < s.limits.qseg ∧ s.pool = []) ∨
    (s.shortage c e = none ∧ s.claims.length < 512 ∧ s.claimsHeld c < s.limits.qclm ∧
      (15 ≤ e.fill → e.chain.length < s.limits.qseg ∧ s.pool ≠ [])) := by
  unfold State.shortage State.occupancy Config.claimCapacity
  by_cases hfull : 512 ≤ s.claims.length
  · exact .inl ⟨if_pos hfull, hfull⟩
  rw [if_neg hfull]
  have hroom := Nat.lt_of_not_le hfull
  by_cases hclaims : s.limits.qclm ≤ s.claimsHeld c
  · exact .inr (.inl ⟨if_pos hclaims, hroom, .inl hclaims⟩)
  rw [if_neg hclaims]
  have hmay := Nat.lt_of_not_le hclaims
  by_cases hfill : e.fill < 15
  · exact .inr (.inr (.inr ⟨if_pos hfill, hroom, hmay, fun h => absurd hfill (Nat.not_lt_of_le h)⟩))
  rw [if_neg hfill]
  have htake := Nat.le_of_not_lt hfill
  by_cases hsegs : s.limits.qseg ≤ e.chain.length
  · exact .inr (.inl ⟨if_pos hsegs, hroom, .inr ⟨htake, hsegs⟩⟩)
  rw [if_neg hsegs]
  have hgrow := Nat.lt_of_not_le hsegs
  by_cases hpool : s.pool = []
  · exact .inr (.inr (.inl ⟨if_pos (List.isEmpty_iff.2 hpool), hroom, hmay, htake, hgrow, hpool⟩))
  · exact .inr (.inr (.inr ⟨if_neg fun h => hpool (List.isEmpty_iff.1 h), hroom, hmay, fun _ => ⟨hgrow, hpool⟩⟩))

/-- The capacity condition that a refusal kind names. -/
theorem State.shortage_of_kind {c : CtxNum} {e : Epoch} {k : RefusalKind} (hfull : k = .claimFull ↔ 512 ≤ s.claims.length)
    (hquota : k = .quota ↔ s.claims.length < 512 ∧ (s.limits.qclm ≤ s.claimsHeld c ∨
      (15 ≤ e.fill ∧ s.limits.qseg ≤ e.chain.length)))
    (hjournal : k = .journalFull ↔ s.claims.length < 512 ∧ s.claimsHeld c < s.limits.qclm ∧ 15 ≤ e.fill ∧
      e.chain.length < s.limits.qseg ∧ s.pool = [])
    (hone : k = .claimFull ∨ k = .quota ∨ k = .journalFull) :
    ∃ q, s.shortage c e = some q ∧ q.kind = k := by
  obtain ⟨hq, hwhy⟩ | ⟨hq, hwhy⟩ | ⟨hq, hwhy⟩ | ⟨-, hroom, hmay, hgrow⟩ := s.shortage_cases c e
  · exact ⟨_, hq, (hfull.2 hwhy).symm⟩
  · exact ⟨_, hq, (hquota.2 hwhy).symm⟩
  · exact ⟨_, hq, (hjournal.2 hwhy).symm⟩
  · obtain hk | hk | hk := hone
    · exact absurd (hfull.1 hk) (Nat.not_le_of_lt hroom)
    · obtain ⟨-, hheld | ⟨hfill, hsegs⟩⟩ := hquota.1 hk
      · exact absurd hheld (Nat.not_le_of_lt hmay)
      · exact absurd hsegs (Nat.not_le_of_lt (hgrow hfill).1)
    · obtain ⟨-, -, hfill, -, hpool⟩ := hjournal.1 hk
      exact absurd hpool (hgrow hfill).2

/-! ### What a rollback request makes of a context -/

/-- A context after a rollback request (R16, R17). -/
def Context.rolled (x : Context) (empty : Bool) (k : Cause) : Context :=
  match x with
  | .active (.opened _) e => if empty then .free else .active (.rollingBack k) e
  | x => x

theorem Context.rolled_of_not_open {x : Context} (h : ∀ i e, x ≠ .active (.opened i) e) (b : Bool) (k : Cause) :
    x.rolled b k = x := by
  cases x with
  | free => rfl
  | active p e =>
    cases p with
    | opened i => exact absurd rfl (h i e)
    | committing | rollingBack | discarding | faulted => rfl

theorem Context.rolled_rolled (x : Context) (b b' : Bool) (k k' : Cause) : (x.rolled b k).rolled b' k' = x.rolled b k :=
  Context.rolled_of_not_open (fun i e h => by
    unfold Context.rolled at h
    split at h
    · cases b <;> exact nomatch h
    · next hclosed => exact hclosed i e h) b' k'

theorem State.isEmptyEpoch_of_claims {t : State} (h : t.claims = s.claims) (c : CtxNum) :
    t.isEmptyEpoch c = s.isEmptyEpoch c := by
  rw [State.isEmptyEpoch, State.claimsHeld, h]; rfl

theorem State.ctx_takeRollback (s : State) (d c : CtxNum) (k : Cause) :
    (s.takeRollback d k).ctx c = if c = d then (s.ctx c).rolled (s.isEmptyEpoch c) k else s.ctx c := by
  by_cases hopen : ∃ i e, s.ctx d = .active (.opened i) e
  · obtain ⟨i, e, hd⟩ := hopen
    have hset (x : Context) : (s.setCtx d x).ctx c = if c = d then x else s.ctx c := s.setCtx_ctx d c x
    by_cases hn : s.claimsHeld d = 0
    · rw [State.takeRollback_of_empty hd hn, State.ctx_raise]
      refine (hset .free).trans ?_
      by_cases hcd : c = d
      · subst hcd
        rw [if_pos rfl, if_pos rfl, hd, State.isEmptyEpoch, hn]; rfl
      · rw [if_neg hcd, if_neg hcd]
    · rw [State.takeRollback_of_claims hd hn]
      refine (hset _).trans ?_
      by_cases hcd : c = d
      · subst hcd
        rw [if_pos rfl, if_pos rfl, hd, State.isEmptyEpoch_iff, decide_eq_false hn]; rfl
      · rw [if_neg hcd, if_neg hcd]
  · have hclosed : ∀ i e, s.ctx d ≠ .active (.opened i) e := fun i e h => hopen ⟨i, e, h⟩
    rw [State.takeRollback_of_not_open hclosed]
    split
    · next hcd => rw [hcd, Context.rolled_of_not_open hclosed]
    · rfl

theorem State.ctx_thresholdReached (s : State) (i : SrcNum) (g : Group) (b : Option CtxNum) (c : CtxNum) :
    (s.thresholdReached i g b).ctx c = s.ctx c ∨
      ((s.settings g).abort = true ∧ b = some c ∧
        (s.thresholdReached i g b).ctx c = (s.ctx c).rolled (s.isEmptyEpoch c) .threshold) := by
  let stopped := if (s.settings g).fence then s.setFence i true else s
  let request := if (s.settings g).abort then b else none
  have hstopped : stopped.ctx c = s.ctx c ∧ stopped.isEmptyEpoch c = s.isEmptyEpoch c := by
    show State.ctx (if _ then _ else _) c = _ ∧ State.isEmptyEpoch (if _ then _ else _) c = _
    split <;> exact ⟨rfl, rfl⟩
  have hctx : (s.thresholdReached i g b).ctx c = (stopped.thresholdAbort request).ctx c := by
    unfold State.thresholdReached
    dsimp only
    split
    · exact State.ctx_raise ..
    · rfl
  rw [hctx]
  cases hr : request with
  | none => exact .inl hstopped.1
  | some d =>
    obtain ⟨habort, hb⟩ : (s.settings g).abort = true ∧ b = some d := by
      by_cases h : (s.settings g).abort = true
      · exact ⟨h, (if_pos h).symm.trans hr⟩
      · exact absurd ((if_neg h).symm.trans hr) nofun
    have htaken := stopped.ctx_takeRollback d c .threshold
    rw [hstopped.1, hstopped.2] at htaken
    by_cases hcd : c = d
    · subst hcd
      exact .inr ⟨habort, hb, htaken.trans (if_pos rfl)⟩
    · exact .inl (htaken.trans (if_neg hcd))

/-- Accounting moves a context by the ABORT action alone (R132). -/
theorem State.ctx_countBound (i : SrcNum) (g : Group) (b : Option CtxNum) (c : CtxNum) :
    (s.countBound i g b).ctx c = s.ctx c ∨
      ((s.settings g).abort = true ∧ b = some c ∧
        (s.countBound i g b).ctx c = (s.ctx c).rolled (s.isEmptyEpoch c) .threshold) := by
  cases hreach : s.reaches i g with
  | false => rw [State.countBound_of_not_reached hreach b]; exact .inl rfl
  | true =>
    rw [State.countBound_of_reached hreach]
    generalize hflagged : s.setCounter i g ⟨_, true⟩ = flagged
    have hctx : flagged.ctx c = s.ctx c := by rw [← hflagged]; rfl
    have hempty : flagged.isEmptyEpoch c = s.isEmptyEpoch c := by rw [← hflagged]; rfl
    have hsettings : flagged.settings g = s.settings g := by rw [← hflagged]; rfl
    rw [← hctx, ← hempty, ← hsettings]
    exact flagged.ctx_thresholdReached i g b c

/-! ### The outcome of a failed check (R81 to R83) -/

theorem State.requestRollback_of_no_access (ha : s.access = none) (c : CtxNum) (k : Cause) :
    s.requestRollback c k = s.takeRollback c k := by
  rw [State.requestRollback, State.deliver_none _ _ ((State.access_of_aside (State.takeRollback_aside ..)).trans ha)]

theorem State.count_access (ha : s.access = none) (i : SrcNum) (g : Group) : (s.count i g).access = none :=
  (State.access_of_aside (State.count_aside ..)).trans ha

theorem Shortage.group_kind (q : Shortage) : q.kind.group = some .capacity := by cases q <;> rfl

theorem State.capacityAbort_of_not_reached {a : Access} {k : RefusalKind} (hr : s.reaches a.src .capacity = false)
    (hk : k.group = some .capacity) (c : CtxNum) :
    s.capacityAbort a c k = ((s.endRefused a k).count a.src .capacity).takeRollback c .capacity := by
  rw [State.capacityAbort, hr, State.refuse, State.report_of_group hk]
  exact State.requestRollback_of_no_access (State.count_access rfl ..) ..

theorem State.capacityAbort_of_reached {a : Access} (hr : s.reaches a.src .capacity = true) (c : CtxNum) (k : RefusalKind) :
    let t := State.endRefused { s with choices := s.choices + 1 } a k
    s.capacityAbort a c k = (t.count a.src .capacity).takeRollback c .capacity ∨
      s.capacityAbort a c k = (t.takeRollback c .capacity).countBound a.src .capacity (s.source a.src).bound := by
  intro t
  unfold State.capacityAbort
  rw [if_pos hr]
  dsimp only
  split
  · right
    rw [State.requestRollback_of_no_access rfl]
  · left
    exact State.requestRollback_of_no_access (State.count_access rfl ..) ..

theorem State.capacityAbort_aside (a : Access) (c : CtxNum) {k : RefusalKind} (hk : k.group = some .capacity) :
    (s.capacityAbort a c k).aside = (s.endRefused a k).aside := by
  cases hr : s.reaches a.src .capacity with
  | false => rw [State.capacityAbort_of_not_reached hr hk, State.takeRollback_aside, State.count_aside]
  | true =>
    obtain h | h := State.capacityAbort_of_reached hr c k
    · rw [h, State.takeRollback_aside, State.count_aside]; rfl
    · rw [h, State.countBound_aside, State.takeRollback_aside]; rfl

/-- What a context is after the rollback of a failed check, and whether the threshold's request came first (log 11). -/
theorem State.ctx_capacityAbort {a : Access} {c : CtxNum} {k : RefusalKind} (hk : k.group = some .capacity) :
    ∃ y, (s.capacityAbort a c k).ctx c = (s.ctx c).rolled (s.isEmptyEpoch c) y ∧
      (y = .capacity ∨ ((s.settings .capacity).abort = true ∧ y = .threshold ∧ (s.source a.src).bound = some c)) := by
  have hcounted (t : State) (hctx : t.ctx c = s.ctx c) (hclaims : t.claims = s.claims)
      (hsettings : t.settings .capacity = s.settings .capacity) (hsource : t.source a.src = s.source a.src) :
      ∃ y, ((t.count a.src .capacity).takeRollback c .capacity).ctx c = (s.ctx c).rolled (s.isEmptyEpoch c) y ∧
        (y = .capacity ∨ ((s.settings .capacity).abort = true ∧ y = .threshold ∧ (s.source a.src).bound = some c)) := by
    have hempty : (t.count a.src .capacity).isEmptyEpoch c = s.isEmptyEpoch c :=
      State.isEmptyEpoch_of_claims ((State.claims_of_aside (State.count_aside ..)).trans hclaims) c
    rw [State.ctx_takeRollback, if_pos rfl, hempty]
    obtain h | ⟨habort, hbound, h⟩ := t.ctx_countBound a.src .capacity (t.source a.src).bound c
    · exact ⟨.capacity, by rw [State.count, h, hctx], .inl rfl⟩
    · rw [hsettings] at habort
      rw [hsource] at hbound
      refine ⟨.threshold, ?_, .inr ⟨habort, rfl, hbound⟩⟩
      rw [State.count, h, hctx, Context.rolled_rolled, State.isEmptyEpoch_of_claims hclaims]
  cases hr : s.reaches a.src .capacity with
  | false =>
    rw [State.capacityAbort_of_not_reached hr hk]
    exact hcounted _ rfl rfl rfl rfl
  | true =>
    obtain h | h := State.capacityAbort_of_reached hr c k
    · rw [h]
      exact hcounted _ rfl rfl rfl rfl
    · rw [h]
      refine ⟨.capacity, ?_, .inl rfl⟩
      generalize hrefused : State.endRefused { s with choices := s.choices + 1 } a k = t
      have htaken : (t.takeRollback c .capacity).ctx c = (s.ctx c).rolled (s.isEmptyEpoch c) .capacity := by
        rw [State.ctx_takeRollback, if_pos rfl, ← hrefused]; rfl
      obtain hsame | ⟨-, -, hagain⟩ := (t.takeRollback c .capacity).ctx_countBound a.src .capacity (s.source a.src).bound c
      · rw [hsame, htaken]
      · rw [hagain, htaken, Context.rolled_rolled]

theorem State.enterHold_grant (h : HostAccess) (r : HoldReason) : (s.enterHold h r).grant = s.grant := by
  unfold State.enterHold
  split
  · exact State.refuse_grant ..
  · rfl

theorem State.settle_grant (h : HostAccess) (v : Verdict) : (s.settle h v).grant = s.grant := by
  cases v with
  | done | send r => rfl
  | refused k => exact State.refuse_grant ..
  | hold => exact State.enterHold_grant ..

section
variable (h : HostAccess) (c : CtxNum) {q : Shortage}

theorem State.capacityOutcome_of_refuse (hp : s.limits.jfull = .refuse ∨ s.limits.jfull = .hold ∧ q.kind = .quota) :
    s.capacityOutcome h c q = s.refuse h.acc q.kind := by
  obtain hp | ⟨hp, hk⟩ := hp
  · simp only [State.capacityOutcome, hp]
  · cases q with
    | claimFull | journalFull => exact nomatch hk
    | quota => simp only [State.capacityOutcome, hp, Shortage.kind]

theorem State.capacityOutcome_of_hold (hp : s.limits.jfull = .hold) (hk : q.kind ≠ .quota) :
    s.capacityOutcome h c q = s.enterHold h (if q.kind = .claimFull then .claimFull else .journalFull) := by
  cases q with
  | claimFull | journalFull => simp only [State.capacityOutcome, hp]; rfl
  | quota => exact absurd rfl hk

theorem State.capacityOutcome_of_abort (hp : s.limits.jfull = .abort) :
    s.capacityOutcome h c q = s.capacityAbort h.acc c q.kind := by
  simp only [State.capacityOutcome, hp]

end

theorem State.capacityOutcome_grant (h : HostAccess) (c : CtxNum) (q : Shortage) :
    (s.capacityOutcome h c q).grant = s.grant := by
  unfold State.capacityOutcome
  split
  · exact State.enterHold_grant ..
  · exact State.enterHold_grant ..
  · exact State.refuse_grant ..
  · exact State.refuse_grant ..
  · exact (State.grant_of_aside (State.capacityAbort_aside _ _ (Shortage.group_kind _))).trans rfl

section
variable {a : Access} {r : Route} {l : Option Nat} {v : Verdict} (hh : s.holder = some .hp) (hg : s.grant = none)
  (hm : s.mode ≠ .frozen) (ha : s.access = some ⟨a, .toMemory r, l⟩) (hv : s.classify a = v) (hne : v ≠ .send r)
include hh hg hm ha hv hne

/-- The grant of an access whose outcome has changed ends at its start, and the outcome applies (R66, R80). -/
theorem State.hostRow_changed (mine : Task → Bool) {fits : Route → Bool → Bool} (hf : fits r a.write = true) (x : Extent) :
    s.hostRow mine fits x = ((s.freed .hp).settle ⟨a, .toMemory r, l⟩ v).arbitrate := by
  rw [State.hostRow_start ha hf hh hg hm, State.startHost_of_changed (by rw [hv]; exact hne), hv,
    State.freePort_eq_freed hh, State.afterStart_of_ended]
  exact State.settle_grant ..

end

/-- Settles O39: of a failed check the three policies and the two orders of the requests; of a changed outcome the four
verdicts. -/
theorem grantStartMayEndGrant : Obligations.GrantStartMayEndGrant := by
  refine ⟨fun s a l c q x hh hg ha i e hv hc k hfull hquota hjournal hone => ?failed,
    fun s a r l v x hh hg hm ha hv hne => ?changed⟩
  case failed =>
    obtain ⟨short, hshort, rfl⟩ := State.shortage_of_kind hfull hquota hjournal hone
    have hexec : exec (.journalledWriteGrant x) s =
        .next (((s.freed .hp).capacityOutcome ⟨a, .toMemory (.journalled c q), l⟩ c short).arbitrate) := by
      rw [exec_journalledWrite_start hh hg ha hv, State.startJournalled_of_shortage hc _ hshort,
        State.freePort_eq_freed hh, State.afterStart_of_ended]
      exact State.capacityOutcome_grant ..
    refine ⟨fun hpolicy => ?refuse, fun hpolicy hkind => ?hold, fun hpolicy => ?abort⟩
    case refuse => rw [hexec, State.capacityOutcome_of_refuse (s := s.freed .hp) _ _ hpolicy]
    case hold => rw [hexec, State.capacityOutcome_of_hold (s := s.freed .hp) _ _ hpolicy hkind]
    case abort =>
      rw [State.capacityOutcome_of_abort (s := s.freed .hp) _ _ hpolicy] at hexec
      have hgroup := short.group_kind
      intro v v' reached ended
      have hreached : (s.freed .hp).reaches a.src .capacity = true ↔ reached := by
        exact (State.reaches_iff ..)
      refine ⟨fun hnot => ?below, fun hyes => ?reached, fun hn hnot => ?empty, ?always⟩
      case below =>
        rw [hexec, State.capacityAbort_of_not_reached (Bool.eq_false_iff.2 fun h => hnot (hreached.1 h)) hgroup]
        rfl
      case reached =>
        obtain h | h := State.capacityAbort_of_reached (hreached.2 hyes) c short.kind
        · exact .inl (hexec.trans (by rw [h]; rfl))
        · exact .inr (hexec.trans (by rw [h]; rfl))
      case empty =>
        intro counted left
        have hnext : nextCount (s.settings .capacity).holdMode (s.counter a.src .capacity).value = v' := nextCount_eq ..
        have hno : (s.freed .hp).reaches a.src .capacity = false := Bool.eq_false_iff.2 fun h => hnot (hreached.1 h)
        have hcount : (State.endRefused (s.freed .hp) a short.kind).count a.src .capacity = counted := by
          rw [State.count, State.countBound_of_not_reached (s := State.endRefused (s.freed .hp) a short.kind) hno]
          show _ = State.setCounter _ _ _ ⟨v', _⟩
          rw [← hnext]
          rfl
        rw [hexec, State.capacityAbort_of_not_reached hno hgroup, hcount,
          State.takeRollback_of_empty (show counted.ctx c = _ from hc) (show counted.claimsHeld c = 0 from hn)]
        rfl
      case always =>
        have haside := (s.freed .hp).capacityAbort_aside a c hgroup
        obtain ⟨y, hctx, hy⟩ := (s.freed .hp).ctx_capacityAbort (a := a) (c := c) hgroup
        have hopen : (s.freed .hp).ctx c = .active (.opened i) e := hc
        refine ⟨_, hexec, ?_, ?_, ?_, ?_, ?_, fun hn => ?_, fun hn => ⟨y, ?_, hy⟩⟩
        · rw [State.arbitrate_access, State.access_of_aside haside]; rfl
        · rw [State.arbitrate_herr, State.herr_of_aside haside]; rfl
        · rw [State.arbitrate_lastEnding, State.lastEnding_of_aside haside]; rfl
        · rw [State.arbitrate_mem, State.mem_of_fixed (State.capacityAbort_fixed ..)]; rfl
        · rw [State.arbitrate_claims, State.claims_of_aside haside]; rfl
        · have hempty : (s.freed .hp).isEmptyEpoch c = true := (State.isEmptyEpoch_iff ..).trans (decide_eq_true hn)
          rw [State.ctx, State.arbitrate_contexts]
          refine hctx.trans ?_
          rw [hopen, hempty]; rfl
        · have hempty : (s.freed .hp).isEmptyEpoch c = false := (State.isEmptyEpoch_iff ..).trans (decide_eq_false hn)
          rw [State.ctx, State.arbitrate_contexts]
          refine hctx.trans ?_
          rw [hopen, hempty]; rfl
  case changed =>
    intro applied
    have happlied : (s.freed .hp).settle ⟨a, .toMemory r, l⟩ v = applied := by
      cases v with
      | done | refused k | send r' => rfl
      | hold =>
        simp only [applied, State.settle, State.enterHold]
        cases l with
        | none => show (match s.limits.holdlim with | 0 => _ | n + 1 => _) = _; cases s.limits.holdlim <;> rfl
        | some n => cases n <;> rfl
    refine ⟨fun c q hr => ?_, fun hr hw => ?_, fun hr hw => ?_⟩
    · subst hr
      exact congrArg Host.Outcome.next ((State.hostRow_changed hh hg hm ha hv hne _ rfl x).trans (by rw [happlied]))
    · subst hr
      exact congrArg Host.Outcome.next
        ((State.hostRow_changed hh hg hm ha hv hne _ (by rw [hw]; rfl) x).trans (by rw [happlied]))
    · subst hr
      exact congrArg Host.Outcome.next
        ((State.hostRow_changed hh hg hm ha hv hne _ (by rw [hw]; rfl) x).trans (by rw [happlied]))

end Sys2Proof.Machine
end

section
/-! SUPPORT. The fields of the records that the part writes, and what the plan of a journalled write does to memory, whole or cut short. -/

namespace Sys2Proof.Machine

variable {s : State}

/-! ### The fields of a descriptor (R27, R166) -/

section
variable (k : RecordKind) (g : Byte) (i n : Nat) (c : CtxNum) (r : SrcNum)

theorem kindField_descriptor : kindField (descriptor k g i n c r) = k.code := by
  simp only [kindField, descriptor]
  repeat rw [BitVec.extractLsb'_append_eq_of_le (by decide)]
  exact BitVec.extractLsb'_eq_self

theorem genField_descriptor : genField (descriptor k g i n c r) = g := by
  simp only [genField, descriptor]
  repeat rw [BitVec.extractLsb'_append_eq_of_le (by decide)]
  exact BitVec.extractLsb'_append_eq_right

theorem idxField_descriptor : idxField (descriptor k g i n c r) = i % 256 := by
  simp only [idxField, descriptor]
  repeat rw [BitVec.extractLsb'_append_eq_of_le (by decide)]
  rw [BitVec.extractLsb'_append_eq_right]
  exact BitVec.toNat_ofNat ..

theorem slotField_descriptor : slotField (descriptor k g i n c r) = n % 16 := by
  simp only [slotField, descriptor]
  repeat rw [BitVec.extractLsb'_append_eq_of_le (by decide)]
  rw [BitVec.extractLsb'_append_eq_right]
  exact BitVec.toNat_ofNat ..

theorem ctxField_descriptor : ctxField (descriptor k g i n c r) = c := by
  simp only [ctxField, descriptor]
  repeat rw [BitVec.extractLsb'_append_eq_of_le (by decide)]
  rw [BitVec.extractLsb'_append_eq_right]
  exact Fin.ext (Nat.mod_eq_of_lt c.isLt)

theorem srcField_descriptor : srcField (descriptor k g i n c r) = r := by
  simp only [srcField, descriptor]
  rw [BitVec.extractLsb'_append_eq_of_le (by decide)]
  rw [BitVec.extractLsb'_append_eq_right]
  exact Fin.ext (Nat.mod_eq_of_lt r.isLt)

end

theorem addrField_setWidth (a : Addr) : addrField (a.setWidth 32) = a := by
  unfold addrField
  ext j hj
  rw [BitVec.getElem_extractLsb', Nat.zero_add, BitVec.getLsbD_setWidth, decide_eq_true (by omega), Bool.true_and,
    BitVec.getLsbD_eq_getElem hj]

/-- A PRE record as the grant writes it passes its check, belongs to the epoch and holds the pre-image (R86). -/
theorem preRecord_belongs (g : Byte) (c : CtxNum) (i : SrcNum) {idx slot : Nat} (q : BitVec 16) (a : Addr) (pre : Word)
    (hi : idx < 256) (hk : slot < 16) :
    let r := preRecord g c i idx slot q a pre
    r.isKind .pre = true ∧ r.passes = true ∧ r.belongs ⟨g, c, i, idx, q⟩ slot = true ∧ addrField r.w1 = a ∧ r.w2 = pre := by
  intro r
  have hkind : kindField r.w0 = RecordKind.pre.code := kindField_descriptor ..
  have hpre : r.isKind .pre = true := by rw [Record.isKind, hkind]; rfl
  refine ⟨hpre, newRecord_passes _ _ _ _ ?_ ?_, ?_, addrField_setWidth a, rfl⟩
  · rw [kindField_descriptor]; decide
  · rw [kindField_descriptor]; decide
  · have hidx : idxField r.w0 = idx := (idxField_descriptor ..).trans (Nat.mod_eq_of_lt hi)
    have hslot : slotField r.w0 = slot := (slotField_descriptor ..).trans (Nat.mod_eq_of_lt hk)
    have hgen : genField r.w0 = g := genField_descriptor ..
    have hctx : ctxField r.w0 = c := ctxField_descriptor ..
    have hsrc : srcField r.w0 = i := srcField_descriptor ..
    have hseq : seqField r.w3 = q := seqField_append ..
    simp only [Record.belongs, hpre, hidx, hslot, hgen, hctx, hsrc, hseq, Bool.true_or, beq_self_eq_true, Bool.and_true]

/-! ### A plan cut short -/

/-- Accesses that write listed words alone leave every byte outside them, however many of them are made. -/
theorem sameOutside_planMemory {ps : List PlannedOp} {l : List Addr}
    (h : ∀ p ∈ ps, ∀ a be w, p.op = .write a be w → a ∈ l) (m : List Host.Cell) :
    Memory.SameOutside m (planMemory m ps) l := by
  induction ps generalizing m with
  | nil => exact .refl m l
  | cons p ps ih =>
    refine .trans ?_ (ih (fun q hq => h q (List.mem_cons_of_mem p hq)) (p.op.memory m))
    cases hp : p.op with
    | read a => exact .refl m l
    | write a be w => exact Memory.sameOutside_putWord m a be w (h p List.mem_cons_self a be w hp)

theorem State.recordWrites_writes {n k : Nat} {r : Record} {x : Mark} {p : PlannedOp} (hp : p ∈ s.recordWrites n k r x)
    {a : Addr} {be : BitVec 4} {w : Word} (ha : p.op = .write a be w) : a ∈ s.slotWords n k := by
  simp only [State.recordWrites, List.mem_cons, List.not_mem_nil, or_false] at hp
  obtain rfl | rfl | rfl | rfl := hp <;> cases ha <;> simp [State.slotWords]

/-! ### The plan of a journalled write (R84 to R88) -/

/-- The records of a journalled write: the header when it is needed, and the PRE record. -/
def State.journalRecords (s : State) (w : Working) : List PlannedOp :=
  (if w.header then
      s.recordWrites w.seg 0 (headerRecord s.gen w.ctx w.source w.idx w.seg w.seq)
        (if w.idx = 0 then .header w.ctx else .quiet)
    else []) ++
  s.recordWrites w.seg w.slot (preRecord s.gen w.ctx w.source w.idx w.slot w.seq w.addr (s.word w.addr))
    (.record w.ctx w.slot)

theorem State.journalPlan_eq (w : Working) (a : Access) :
    s.journalPlan w a =
      ⟨.read w.addr, .preimage (s.word w.addr)⟩ :: (s.journalRecords w ++ [s.hostWrite a (some w.ctx)]) := rfl

/-- The words that the records of a journalled write go to. -/
def State.journalWords (s : State) (w : Working) : List Addr :=
  (if w.header then s.slotWords w.seg 0 else []) ++ s.slotWords w.seg w.slot

theorem State.journalRecords_writes {w : Working} {p : PlannedOp} (hp : p ∈ s.journalRecords w) {a : Addr}
    {be : BitVec 4} {v : Word} (ha : p.op = .write a be v) : a ∈ s.journalWords w := by
  obtain hp | hp := List.mem_append.1 hp
  · refine List.mem_append_left _ ?_
    by_cases hw : w.header = true
    · rw [if_pos hw] at hp ⊢
      exact State.recordWrites_writes hp ha
    · rw [if_neg hw] at hp
      exact absurd hp List.not_mem_nil
  · exact List.mem_append_right _ (State.recordWrites_writes hp ha)

theorem State.journalRecords_length (w : Working) : (s.journalRecords w).length ≤ 8 := by
  unfold State.journalRecords
  cases w.header <;> simp [State.recordWrites]

theorem State.planMemory_journalPlan (w : Working) (a : Access) :
    planMemory s.mem (s.journalPlan w a) =
      Memory.putWord (planMemory s.mem (s.journalRecords w)) a.addr a.be a.data := by
  rw [State.journalPlan_eq]
  exact planMemory_append ..

section
variable (w : Working) (a : Access) (hf : s.areaFits) (hn : w.seg < s.nseg) (hk : w.slot < 16)
  (hw : s.inWindow a.addr = false)
include hf hn hk hw

theorem State.not_mem_journalWords : a.addr ∉ s.journalWords w := by
  have hne (k : Nat) (hk : k < 16) : a.addr ∉ s.slotWords w.seg k := by
    have ne := fun i (hi : i < 4) => s.ne_slotAddr hf hw hn hk hi
    simp [State.slotWords, ne]
  intro h
  obtain h | h := List.mem_append.1 h
  · split at h
    · exact hne 0 (by omega) h
    · exact List.not_mem_nil h
  · exact hne _ hk h

theorem State.word_journalRecords : Memory.word (planMemory s.mem (s.journalRecords w)) a.addr = s.word a.addr :=
  Memory.SameOutside.word (sameOutside_planMemory (fun _ hp _ _ _ ha => State.journalRecords_writes hp ha) s.mem)
    (State.not_mem_journalWords w a hf hn hk hw)

omit hk in
/-- The host write leaves the slots of the grant. -/
theorem State.slotIn_hostWrite (m : List Host.Cell) {k : Nat} (hk' : k < 16) :
    s.slotIn (Memory.putWord m a.addr a.be a.data) w.seg k = s.slotIn m w.seg k := by
  have ne (i : Nat) (hi : i < 4) := (s.ne_slotAddr hf hw hn hk' hi).symm
  simp only [State.slotIn, Memory.word_putWord_ne _ _ _ (ne 0 (by decide)),
    Memory.word_putWord_ne _ _ _ (ne 1 (by decide)), Memory.word_putWord_ne _ _ _ (ne 2 (by decide)),
    Memory.word_putWord_ne _ _ _ (ne 3 (by decide))]

/-- The PRE record stands in its slot (R86). -/
theorem State.slotIn_journalPlan :
    s.slotIn (planMemory s.mem (s.journalPlan w a)) w.seg w.slot =
      preRecord s.gen w.ctx w.source w.idx w.slot w.seq w.addr (s.word w.addr) := by
  rw [State.planMemory_journalPlan, State.slotIn_hostWrite w a hf hn hw _ hk, State.journalRecords, planMemory_append,
    s.slotIn_recordWrites hf _ hn hk]

/-- The header stands in slot 0 when the target slot is another (R85). -/
theorem State.slotIn_journalPlan_header (hh : w.header = true) (hk' : 1 ≤ w.slot) :
    s.slotIn (planMemory s.mem (s.journalPlan w a)) w.seg 0 =
      headerRecord s.gen w.ctx w.source w.idx w.seg w.seq := by
  have hrest (m : List Host.Cell) (r : Record) (x : Mark) :
      s.slotIn (planMemory m (s.recordWrites w.seg w.slot r x)) w.seg 0 = s.slotIn m w.seg 0 := by
    have hout := s.sameOutside_recordWrites m w.seg w.slot r x
    have ne (i : Nat) (hi : i < 4) : s.slotAddr w.seg 0 i ∉ s.slotWords w.seg w.slot := by
      have away (j : Nat) (hj : j < 4) : s.slotAddr w.seg 0 i ≠ s.slotAddr w.seg w.slot j := fun h =>
        Nat.ne_of_lt hk' (s.slotAddr_inj hf hn (by decide) hi hn hk hj h).2.1
      simp [State.slotWords, away]
    simp only [State.slotIn, hout.word (ne 0 (by decide)), hout.word (ne 1 (by decide)), hout.word (ne 2 (by decide)),
      hout.word (ne 3 (by decide))]
  rw [State.planMemory_journalPlan, State.slotIn_hostWrite w a hf hn hw _ (by decide), State.journalRecords,
    planMemory_append, hrest, if_pos hh, s.slotIn_recordWrites hf _ hn (by decide)]

/-- The bytes of the host word after the grant (R67, R88). -/
theorem State.byte_journalPlan {j : Nat} (hj : j < 4) :
    Memory.byte (planMemory s.mem (s.journalPlan w a)) (byteKey a.addr j) =
      if a.be.getLsbD j then byteOf a.data j else Memory.byte s.mem (byteKey a.addr j) := by
  rw [State.planMemory_journalPlan, Memory.byte_putWord_self _ _ _ _ hj]
  have hkeep : Memory.byte (planMemory s.mem (s.journalRecords w)) (byteKey a.addr j) =
      Memory.byte s.mem (byteKey a.addr j) :=
    sameOutside_planMemory (fun _ hp _ _ _ ha => State.journalRecords_writes hp ha) s.mem _ fun b hb i hi h =>
      State.not_mem_journalWords w a hf hn hk hw ((byteKey_inj hj hi h).1 ▸ hb)
  rw [hkeep]

end

theorem State.sameOutside_journalPlan (w : Working) (a : Access) :
    Memory.SameOutside s.mem (planMemory s.mem (s.journalPlan w a)) (a.addr :: s.journalWords w) := by
  rw [State.planMemory_journalPlan]
  refine .trans ?_ (Memory.sameOutside_putWord _ _ _ _ List.mem_cons_self)
  exact sameOutside_planMemory (fun _ hp _ _ _ ha => List.mem_cons_of_mem _ (State.journalRecords_writes hp ha)) s.mem

/-- A journalled write cut after some of its accesses: the records alone, cut too, or the whole plan. -/
theorem State.planMemory_take_journalPlan (w : Working) (a : Access) (n : Nat) :
    (∃ k, planMemory s.mem ((s.journalPlan w a).take n) = planMemory s.mem ((s.journalRecords w).take k)) ∨
      planMemory s.mem ((s.journalPlan w a).take n) = planMemory s.mem (s.journalPlan w a) := by
  rw [State.journalPlan_eq]
  cases n with
  | zero => exact .inl ⟨0, rfl⟩
  | succ n =>
    by_cases hn : n ≤ (s.journalRecords w).length
    · exact .inl ⟨n, by rw [List.take_succ_cons, List.take_append_of_le_length hn]; rfl⟩
    · refine .inr (congrArg (planMemory s.mem) (List.take_of_length_le ?_))
      rw [List.length_cons, List.length_append, List.length_singleton]
      omega

/-! ### The grant of a write that fits -/

theorem State.shortage_of_fits {c : CtxNum} {e : Epoch} (hroom : s.claims.length < 512)
    (hmay : s.claimsHeld c < s.limits.qclm) (hgrow : 15 ≤ e.fill → e.chain.length < s.limits.qseg ∧ s.pool ≠ []) :
    s.shortage c e = none := by
  obtain ⟨-, hwhy⟩ | ⟨-, -, hwhy⟩ | ⟨-, -, -, hfill, -, hpool⟩ | ⟨h, -⟩ := s.shortage_cases c e
  · exact absurd hwhy (Nat.not_le_of_lt hroom)
  · obtain hwhy | ⟨hfill, hwhy⟩ := hwhy
    · exact absurd hwhy (Nat.not_le_of_lt hmay)
    · exact absurd hwhy (Nat.not_le_of_lt (hgrow hfill).1)
  · exact absurd hpool (hgrow hfill).2
  · exact h

/-- The target of a journalled write is a slot from 1 to 14 (R79). -/
theorem State.target_slot {e : Epoch} (hfill : 1 ≤ e.fill) : 1 ≤ (s.target e).slot ∧ (s.target e).slot < 16 := by
  unfold State.target
  split
  · next h => exact ⟨hfill, Nat.lt_succ_of_lt h⟩
  · exact ⟨Nat.le_refl 1, Nat.lt_of_sub_ne_zero nofun⟩

theorem State.inWindow_of_send_journalled {a : Access} {c : CtxNum} {q : BitVec 16}
    (hv : s.classify a = .send (.journalled c q)) : s.inWindow a.addr = false := by
  by_contra hw
  have hwin := Bool.eq_true_of_not_eq_false hw
  rw [State.classify_write (State.mode_of_send hv) (State.write_of_send_journalled hv)] at hv
  by_cases hbe : a.be = 0#4
  · rw [State.classifyWrite, if_pos hbe] at hv
    exact nomatch hv
  · rw [State.classifyWrite_of_inWindow hbe hwin] at hv
    exact nomatch hv

/-- Settles O40: cut before its last access the grant has written to its slots alone; then the PRE record stands. -/
theorem cutJournalledWriteKeepsPreimage : Obligations.CutJournalledWriteKeepsPreimage := by
  intro s a l c q i e n t u hh hg ha hv hc ho hroom hmay hf hchain hfill hfill' hgrow hn hidx ht hu g r
  have hmem : u.mem = planMemory s.mem ((s.journalPlan (s.working a c e) a).take n) := by
    have hfits := State.shortage_of_fits hroom hmay (fun h => hgrow (Nat.le_antisymm hfill' h))
    rw [exec_journalledWrite_start hh hg ha hv, State.startJournalled_of_fits hc _ hfits, State.startGrant_accesses] at ht
    cases ht
    cases hu
    show State.mem (State.performAll _ _) = _
    rw [State.performAll_mem]
    exact congrArg (planMemory · _)
      (State.mem_of_fixed ((State.extendChain_fixed ..).trans (State.insertClaim_fixed ..)))
  obtain ⟨hslot, hslot'⟩ := State.target_slot (s := s) hfill
  have hwin := State.inWindow_of_send_journalled hv
  have hwords : ∀ b ∈ s.journalWords (s.working a c e), b ∈ s.slotWords g.seg 0 ++ s.slotWords g.seg g.slot := by
    intro b hb
    obtain hb | hb := List.mem_append.1 hb
    · split at hb
      · exact List.mem_append_left _ hb
      · exact absurd hb List.not_mem_nil
    · exact List.mem_append_right _ hb
  obtain ⟨k, hcut⟩ | hwhole := s.planMemory_take_journalPlan (s.working a c e) a n
  · have hout : Memory.SameOutside s.mem u.mem (s.journalWords (s.working a c e)) := by
      rw [hmem, hcut]
      exact sameOutside_planMemory
        (fun _ hp _ _ _ ha => State.journalRecords_writes (List.mem_of_mem_take hp) ha) s.mem
    exact ⟨.inl (hout.word (State.not_mem_journalWords _ a hf hn hslot' hwin)),
      hout.mono fun b hb => List.mem_cons_of_mem _ (hwords b hb)⟩
  · rw [hwhole] at hmem
    have hr : r = preRecord s.gen c a.src g.idx g.slot e.seq a.addr (s.word a.addr) := by
      show s.slotIn u.mem g.seg g.slot = _
      rw [hmem]
      exact State.slotIn_journalPlan (s.working a c e) a hf hn hslot' hwin
    refine ⟨.inr ?_, ?_⟩
    · rw [hr]
      exact preRecord_belongs s.gen c a.src e.seq a.addr (s.word a.addr) hidx hslot'
    · rw [hmem]
      refine (State.sameOutside_journalPlan _ a).mono fun b hb => ?_
      obtain hb | hb := List.mem_cons.1 hb
      · exact hb ▸ List.mem_cons_self
      · exact List.mem_cons_of_mem _ (hwords b hb)

end Sys2Proof.Machine
end

section
/-! SUPPORT. A journalled write carried to its end: the chip after the start step and the accesses, and what the guards' transitions leave. -/

namespace Sys2Proof.Machine

variable {s : State}

/-! ### The start step of a write that fits (R79) -/

/-- An event raised in a state changes the same fields as in any state with the same event queue and mode. -/
theorem State.raise_eq_of_queue {t : State} (he : t.events = s.events) (hq : t.eventSeq = s.eventSeq)
    (hl : t.lostEvents = s.lostEvents) (hk : t.eventMask = s.eventMask) (hm : t.mode = s.mode) (k c i d n a) :
    t.raise k c i d n a =
      { t with events := (s.raise k c i d n a).events, eventSeq := (s.raise k c i d n a).eventSeq,
               lostEvents := (s.raise k c i d n a).lostEvents } := by
  cases hon : s.eventMask.getLsbD k.code with
  | false =>
    rw [State.raise_of_disabled hon, State.raise_of_disabled (by rw [hk]; exact hon), ← he, ← hq, ← hl]
  | true =>
    have hon' : t.eventMask.getLsbD k.code = true := by rw [hk]; exact hon
    by_cases hroom : s.events.length < 32
    · rw [State.raise_of_room hon hroom, State.raise_of_room hon' (by rw [he]; exact hroom), he, hq, hm, ← hl]
    · rw [State.raise_of_full hon (Nat.not_lt.1 hroom), State.raise_of_full hon' (by rw [he]; exact Nat.not_lt.1 hroom), hq,
        hl, ← he]

/-- An event changes the event queue's fields alone. -/
theorem State.raise_eq (k c i d n a) :
    s.raise k c i d n a =
      { s with events := (s.raise k c i d n a).events, eventSeq := (s.raise k c i d n a).eventSeq,
               lostEvents := (s.raise k c i d n a).lostEvents } :=
  State.raise_eq_of_queue rfl rfl rfl rfl rfl k c i d n a

/-- The epoch after the start step: at fill 15 the pool head joins the chain (R36, R79). -/
def State.grown (s : State) (e : Epoch) : Epoch :=
  if e.fill < 15 then e else { e with chain := e.chain ++ [⟨s.pool.headD 0, e.chain.length⟩], fill := 1 }

/-- The state that gives the event queue after the start step: LOW_WATER when taking the segment crosses the setting
(R42). -/
def State.lowWarned (s : State) (e : Epoch) : State :=
  if ¬ e.fill < 15 ∧ s.limits.lowwater ≤ s.pool.length ∧ s.pool.length - 1 < s.limits.lowwater then
    s.raise .lowWater none none none (BitVec.ofNat 16 (s.pool.length - 1)) none
  else s

/-- The chip after the start step of a write of `a` by context `c` (R79). -/
def State.begun (s : State) (a : Addr) (c : CtxNum) (p : Phase) (e : Epoch) : State :=
  { s with
    claims := ⟨a, c⟩ :: s.claims, pool := if e.fill < 15 then s.pool else s.pool.tail,
    contexts := s.contexts.set c (.active p (s.grown e)), events := (s.lowWarned e).events,
    eventSeq := (s.lowWarned e).eventSeq, lostEvents := (s.lowWarned e).lostEvents }

theorem State.insertClaim_of_room {a : Addr} (ho : s.owner a = none) (hroom : s.claims.length < 512) (c : CtxNum) :
    s.insertClaim a c = { s with claims := ⟨a, c⟩ :: s.claims } := by
  unfold State.insertClaim
  rw [ho]
  exact if_neg (Bool.eq_false_iff.1 (decide_eq_false (Nat.not_le_of_lt hroom)))

theorem State.set_self {c : CtxNum} {x : Context} (hc : s.ctx c = x) : s.contexts.set c x = s.contexts := by
  rw [← hc]
  exact Vector.set_getElem_self c.isLt

theorem State.mapEpoch_of_active {c : CtxNum} {p : Phase} {e : Epoch} (hc : s.ctx c = .active p e) (f : Epoch → Epoch) :
    s.mapEpoch c f = s.setCtx c (.active p (f e)) := by
  rw [State.mapEpoch, hc]

theorem State.extendChain_of_room {e : Epoch} (h : e.fill < 15) (c : CtxNum) : s.extendChain c e = s := if_pos h

theorem State.extendChain_of_full {e : Epoch} (h : ¬ e.fill < 15) (c : CtxNum) :
    s.extendChain c e = (State.mapEpoch { s with pool := s.pool.tail } c fun e =>
      { e with chain := e.chain ++ [⟨s.pool.headD 0, e.chain.length⟩], fill := 1 }).lowWater s.pool.length := if_neg h

theorem State.lowWater_eq_of_queue {t : State} (he : t.events = s.events) (hq : t.eventSeq = s.eventSeq)
    (hl : t.lostEvents = s.lostEvents) (hk : t.eventMask = s.eventMask) (hm : t.mode = s.mode) (hlim : t.limits = s.limits)
    (n : Nat) :
    let warned := if s.limits.lowwater ≤ n ∧ t.pool.length < s.limits.lowwater then
        s.raise .lowWater none none none (BitVec.ofNat 16 t.pool.length) none
      else s
    t.lowWater n =
      { t with events := warned.events, eventSeq := warned.eventSeq, lostEvents := warned.lostEvents } := by
  intro warned
  unfold State.lowWater
  by_cases hlow : s.limits.lowwater ≤ n ∧ t.pool.length < s.limits.lowwater
  · rw [if_pos (by rw [hlim]; exact hlow), State.raise_eq_of_queue he hq hl hk hm]
    have hwarned : warned = s.raise .lowWater none none none (BitVec.ofNat 16 t.pool.length) none := if_pos hlow
    rw [hwarned]
  · rw [if_neg (by rw [hlim]; exact hlow)]
    have hwarned : warned = s := if_neg hlow
    rw [hwarned, ← he, ← hq, ← hl]

section
variable {a : Addr} {c : CtxNum} {p : Phase} {e : Epoch} (ho : s.owner a = none) (hroom : s.claims.length < 512)
  (hc : s.ctx c = .active p e)
include ho hroom hc

theorem State.begun_eq : (s.insertClaim a c).extendChain c e = s.begun a c p e := by
  rw [State.insertClaim_of_room ho hroom]
  by_cases hfill : e.fill < 15
  · have hgrown : s.grown e = e := if_pos hfill
    have hwarned : s.lowWarned e = s := if_neg fun h => h.1 hfill
    rw [State.extendChain_of_room hfill, State.begun, hgrown, hwarned, if_pos hfill, State.set_self hc]
  · have hgrown : s.grown e = { e with chain := e.chain ++ [⟨s.pool.headD 0, e.chain.length⟩], fill := 1 } := if_neg hfill
    rw [State.extendChain_of_full hfill]
    have hmap := State.mapEpoch_of_active (s := { s with claims := ⟨a, c⟩ :: s.claims, pool := s.pool.tail }) hc fun e =>
      { e with chain := e.chain ++ [⟨s.pool.headD 0, e.chain.length⟩], fill := 1 }
    have hlow := State.lowWater_eq_of_queue (s := s) (t := State.setCtx
      { s with claims := ⟨a, c⟩ :: s.claims, pool := s.pool.tail } c
      (.active p { e with chain := e.chain ++ [⟨s.pool.headD 0, e.chain.length⟩], fill := 1 }))
      rfl rfl rfl rfl rfl rfl s.pool.length
    refine (congrArg (State.lowWater · s.pool.length) hmap).trans (hlow.trans ?_)
    have hlen : (State.setCtx { s with claims := ⟨a, c⟩ :: s.claims, pool := s.pool.tail } c
        (.active p { e with chain := e.chain ++ [⟨s.pool.headD 0, e.chain.length⟩], fill := 1 })).pool.length =
        s.pool.length - 1 := List.length_tail
    rw [State.begun, State.lowWarned, hgrown, if_neg hfill]
    rw [hlen]
    simp only [hfill, not_false_eq_true, true_and]
    rfl

end

/-! ### The accesses (R84 to R88) -/

/-- The epoch after the records of a journalled write: the header written, the PRE record counted, and fill past its slot
(R85, R87). -/
def Working.recorded (w : Working) (e : Epoch) : Epoch :=
  { e with headerWritten := e.headerWritten || (w.header && w.idx == 0), fill := w.slot + 1, preWritten := e.preWritten + 1 }

theorem State.setCtx_setCtx (c : CtxNum) (x y : Context) : (s.setCtx c x).setCtx c y = s.setCtx c y := by
  unfold State.setCtx
  dsimp only
  rw [Vector.set_set]

theorem State.ctx_setCtx_self (c : CtxNum) (x : Context) : (s.setCtx c x).ctx c = x :=
  (s.setCtx_ctx c c x).trans (if_pos rfl)

theorem State.marks_journalRecords {t : State} {w : Working} {p : Phase} {e : Epoch} (hc : t.ctx w.ctx = .active p e) :
    t.marks (s.journalRecords w) = t.setCtx w.ctx (.active p (w.recorded e)) := by
  have hrecord (u : State) (e' : Epoch) (hu : u.ctx w.ctx = .active p e') :
      u.mark (.record w.ctx w.slot) =
        u.setCtx w.ctx (.active p { e' with fill := w.slot + 1, preWritten := e'.preWritten + 1 }) :=
    State.mapEpoch_of_active hu _
  rw [State.journalRecords, State.marks_append, State.marks_recordWrites, Working.recorded]
  cases w.header with
  | false => rw [Bool.false_and, Bool.or_false]; exact hrecord t e hc
  | true =>
    rw [if_pos rfl, State.marks_recordWrites, Bool.true_and]
    by_cases hidx : w.idx = 0
    · have hheader : t.mark (.header w.ctx) = t.setCtx w.ctx (.active p { e with headerWritten := true }) :=
        State.mapEpoch_of_active hc _
      rw [if_pos hidx, hheader, hrecord _ _ (State.ctx_setCtx_self ..), State.setCtx_setCtx, hidx, beq_self_eq_true,
        Bool.or_true]
    · rw [if_neg hidx, beq_false_of_ne hidx, Bool.or_false]
      exact hrecord t e hc

theorem State.watchHost_withMem (m m' : List Host.Cell) (a : Access) (w : Option CtxNum) (b : Bool) :
    (s.watchHost m' a w b).withMem m = (s.withMem m).watchHost m' a w b := by
  unfold State.watchHost
  rw [State.evaluateAll_withMem]
  cases b <;> rfl

/-- The chip and memory after the accesses of a journalled write, before its write is evaluated. -/
def State.journalled (s : State) (a : Access) (c : CtxNum) (p : Phase) (e : Epoch) : State :=
  { s.begun a.addr c p e with
    mem := planMemory s.mem (s.journalPlan (s.working a c e) a),
    contexts := s.contexts.set c (.active p ((s.working a c e).recorded (s.grown e))),
    grant := some ⟨.journalledWrite { s.working a c e with preimage := some (s.word a.addr) }, [], [], []⟩ }

theorem State.performAll_journalPlan (a : Access) (c : CtxNum) (p : Phase) (e : Epoch) :
    ((s.begun a.addr c p e).startGrant (.journalledWrite (s.working a c e)) []).performAll
        (s.journalPlan (s.working a c e) a) =
      (s.journalled a c p e).watchHost (Memory.putWord s.mem a.addr a.be a.data) a (some c) (s.watches a.addr) := by
  let read : State := { s.begun a.addr c p e with
    grant := some ⟨.journalledWrite { s.working a c e with preimage := some (s.word a.addr) }, [], [], []⟩ }
  have hread : read.ctx c = .active p (s.grown e) := State.ctx_setCtx_self (s := s) c _
  have hset : read.setCtx c (.active p ((s.working a c e).recorded (s.grown e))) =
      { read with contexts := s.contexts.set c (.active p ((s.working a c e).recorded (s.grown e))) } :=
    congrArg (fun v => { read with contexts := v }) (Vector.set_set ..)
  have hmarks := State.marks_journalRecords (s := s) (w := s.working a c e) hread
  rw [State.performAll_eq]
  have hall : ((s.begun a.addr c p e).startGrant (.journalledWrite (s.working a c e)) []).marks
        (s.journalPlan (s.working a c e) a) =
      (read.setCtx c (.active p ((s.working a c e).recorded (s.grown e)))).watchHost
        (Memory.putWord s.mem a.addr a.be a.data) a (some c) (s.watches a.addr) := by
    rw [State.journalPlan_eq]
    show read.marks (_ ++ _) = _
    rw [State.marks_append, hmarks]
    exact State.mark_hostWrite ..
  rw [hall, State.watchHost_withMem, hset]
  rfl

/-! ### The end of the grant (R88, R89) -/

section
variable {a : Access} {l : Option Nat} {c : CtxNum} {q : BitVec 16} {p : Phase} {e : Epoch} (hh : s.holder = some .hp)
  (hg : s.grant = none) (ha : s.access = some ⟨a, .toMemory (.journalled c q), l⟩)
  (hv : s.classify a = .send (.journalled c q)) (hc : s.ctx c = .active p e) (ho : s.owner a.addr = none)
  (hroom : s.claims.length < 512) (hmay : s.claimsHeld c < s.limits.qclm)
  (hgrow : 15 ≤ e.fill → e.chain.length < s.limits.qseg ∧ s.pool ≠ [])
include hh hg ha hv hc ho hroom hmay hgrow

theorem exec_journalledWrite_begun (x : Extent) :
    exec (.journalledWriteGrant x) s =
      .next (((s.begun a.addr c p e).startGrant (.journalledWrite (s.working a c e))
        (s.journalPlan (s.working a c e) a)).afterStart x) := by
  rw [exec_journalledWrite_start hh hg ha hv,
    State.startJournalled_of_fits hc _ (State.shortage_of_fits hroom hmay hgrow), ← State.begun_eq ho hroom hc]

/-- A journalled write carried to its end: the access DONE, the timer reloaded, and the transitions reported. -/
theorem exec_journalledWrite_toEnd :
    ∃ hits guards, exec (.journalledWriteGrant .toEnd) s =
        .next ((((({ (s.journalled a c p e).freed .hp with guards := guards } : State)).endDone.reloadIdle c).reportHits
          hits).arbitrate) ∧
      (∀ h ∈ hits, h.ctx = some c) ∧ (s.watches a.addr = false → guards = s.guards ∧ hits = []) := by
  obtain ⟨hits, late, guards, heq, hctx, hstill⟩ := State.watchHost_eq (s := s.journalled a c p e) rfl
    (Memory.putWord s.mem a.addr a.be a.data) a (some c) (s.watches a.addr)
  refine ⟨hits, guards, ?_, hctx, fun hf => ⟨(hstill hf).1, (hstill hf).2.1⟩⟩
  rw [exec_journalledWrite_begun hh hg ha hv hc ho hroom hmay hgrow, State.startGrant_toEnd, State.performAll_journalPlan,
    heq, State.finishGrant_of_grant rfl]
  have hfree := State.freePort_eq_freed (s := { s.journalled a c p e with
    guards := guards, grant := some ⟨.journalledWrite { s.working a c e with preimage := some (s.word a.addr) }, [],
      hits, late⟩ }) hh
  exact congrArg (fun u : State => Host.Outcome.next (((u.endDone.reloadIdle c).reportHits hits).arbitrate)) hfree

end

/-! ### What the guards' requests leave of the writer's epoch (R16, R124) -/

/-- The other contexts, the epoch of `c` and the pool, while `c` holds a claim. -/
structure WriterKept (c : CtxNum) (s t : State) : Prop where
  others : ∀ d, d ≠ c → t.ctx d = s.ctx d
  own : ∀ p e, s.ctx c = .active p e → ∃ p', t.ctx c = .active p' e
  pool : t.pool = s.pool
  epochSeq : t.epochSeq = s.epochSeq

namespace WriterKept

variable {c : CtxNum}

theorem of_same {t : State} (hc : t.contexts = s.contexts) (hp : t.pool = s.pool) (hq : t.epochSeq = s.epochSeq) :
    WriterKept c s t := by
  have hctx (d : CtxNum) : t.ctx d = s.ctx d := by rw [State.ctx, hc]; rfl
  exact ⟨fun d _ => hctx d, fun p e h => ⟨p, (hctx c).trans h⟩, hp, hq⟩

theorem trans {t u : State} (h : WriterKept c s t) (h' : WriterKept c t u) : WriterKept c s u where
  others d hd := (h'.others d hd).trans (h.others d hd)
  own p e hc := by
    obtain ⟨p', hp'⟩ := h.own p e hc
    exact h'.own p' e hp'
  pool := h'.pool.trans h.pool
  epochSeq := h'.epochSeq.trans h.epochSeq

theorem takeRollback (hheld : s.claimsHeld c ≠ 0) (k : Cause) : WriterKept c s (s.takeRollback c k) := by
  by_cases hopen : ∃ i e, s.ctx c = .active (.opened i) e
  · obtain ⟨i, e, hc⟩ := hopen
    rw [State.takeRollback_of_claims hc hheld]
    refine ⟨fun d hd => (s.setCtx_ctx c d _).trans (if_neg hd), fun p e' hc' => ?_, rfl, rfl⟩
    cases hc.symm.trans hc'
    exact ⟨_, State.ctx_leaveOpen ..⟩
  · rw [State.takeRollback_of_not_open fun i e h => hopen ⟨i, e, h⟩]
    exact of_same rfl rfl rfl

theorem requestHits {l : List GuardHit} (ha : s.access = none) (hheld : s.claimsHeld c ≠ 0)
    (hl : ∀ h ∈ l, h.ctx = some c) : WriterKept c s (l.foldl State.requestHit s) := by
  induction l generalizing s with
  | nil => exact of_same rfl rfl rfl
  | cons h l ih =>
    rw [List.foldl_cons]
    have hrest := fun x hx => hl x (List.mem_cons_of_mem h hx)
    cases hr : h.request with
    | false =>
      have hsame : s.requestHit h = s := by simp only [State.requestHit, hr]
      rw [hsame]
      exact ih ha hheld hrest
    | true =>
      have htake : s.requestHit h = s.takeRollback c .guard := by
        simp only [State.requestHit, hr, hl h List.mem_cons_self]
        exact State.requestRollback_of_no_access ha c .guard
      have haside := s.takeRollback_aside c .guard
      have hclaims := State.claims_of_aside haside
      rw [htake]
      refine .trans (takeRollback hheld .guard) (ih ((State.access_of_aside haside).trans ha) ?_ hrest)
      rw [State.claimsHeld, hclaims]
      exact hheld

theorem raiseHits (l : List GuardHit) : WriterKept c s (l.foldl State.raiseHit s) := by
  induction l generalizing s with
  | nil => exact of_same rfl rfl rfl
  | cons h l ih =>
    rw [List.foldl_cons]
    refine .trans (of_same (t := s.raiseHit h) (State.raise_contexts ..) ?_ ?_) ih <;>
      (rw [State.raiseHit, State.raise_eq])

theorem reportHits {l : List GuardHit} (ha : s.access = none) (hheld : s.claimsHeld c ≠ 0)
    (hl : ∀ h ∈ l, h.ctx = some c) : WriterKept c s (s.reportHits l) := by
  have haside : (l.foldl State.raiseHit s).aside = s.aside := by
    clear hl
    induction l generalizing s with
    | nil => rfl
    | cons h l ih => 
      rw [List.foldl_cons]
      have hfirst : (s.raiseHit h).aside = s.aside := State.raise_aside ..
      exact (ih ((State.access_of_aside hfirst).trans ha)
        (by rw [State.claimsHeld, State.claims_of_aside hfirst]; exact hheld)).trans hfirst
  refine .trans (raiseHits l) (requestHits ((State.access_of_aside haside).trans ha) ?_ hl)
  rw [State.claimsHeld, State.claims_of_aside haside]
  exact hheld

end WriterKept

/-! ### The statement -/

theorem State.regions_of_fixed {t : State} (h : s.fixed = t.fixed) : s.regions = t.regions :=
  show s.fixed.regions = t.fixed.regions by rw [h]

theorem State.recorded_grown (a : Access) (c : CtxNum) (e : Epoch) :
    (s.working a c e).recorded (s.grown e) = { e with
      chain := if e.fill < 15 then e.chain else e.chain ++ [⟨(s.target e).seg, (s.target e).idx⟩],
      fill := (s.target e).slot + 1,
      headerWritten := e.headerWritten || ((s.target e).slot == 1 && (s.target e).idx == 0),
      preWritten := e.preWritten + 1 } := by
  unfold State.grown Working.recorded State.working
  by_cases hfill : e.fill < 15
  · simp only [if_pos hfill]
  · have htarget : s.target e = ⟨s.pool.headD 0, 1, e.chain.length⟩ := if_neg hfill
    simp only [if_neg hfill, htarget]

theorem State.journalWords_working (a : Access) (c : CtxNum) (e : Epoch) :
    s.journalWords (s.working a c e) =
      (if (s.target e).slot = 1 then s.slotWords (s.target e).seg 0 else []) ++
        s.slotWords (s.target e).seg (s.target e).slot := by
  simp only [State.journalWords, State.working, beq_iff_eq]

/-- Settles O38: memory by the plan of the grant, the context by `recorded`, and of the rest what the guards' transitions
leave. -/
theorem journalledWriteRecordsAndStores : Obligations.JournalledWriteRecordsAndStores := by
  intro s a l c q i e hh hg ha hv hc ho hroom hmay hf hchain hfill hfill' hgrow hn g head
  have hgrow' : 15 ≤ e.fill → e.chain.length < s.limits.qseg ∧ s.pool ≠ [] := fun h => hgrow (Nat.le_antisymm hfill' h)
  obtain ⟨hits, guards, heq, hctx, hstill⟩ := exec_journalledWrite_toEnd hh hg ha hv hc ho hroom hmay hgrow'
  obtain ⟨hslot, hslot'⟩ := State.target_slot (s := s) hfill
  have hwin := State.inWindow_of_send_journalled hv
  refine ⟨planMemory s.mem (s.journalPlan (s.working a c e) a), _, heq, ?_⟩
  generalize hended : (({ (s.journalled a c (.opened i) e).freed .hp with guards := guards } : State)).endDone = ended
    at heq ⊢
  have hopen : ended.ctx c = .active (.opened i) ((s.working a c e).recorded (s.grown e)) := by
    rw [← hended]
    exact State.ctx_setCtx_self (s := s) c _
  have hothers (d : CtxNum) (hd : d ≠ c) : ended.ctx d = s.ctx d := by
    rw [← hended]
    exact (s.setCtx_ctx c d _).trans (if_neg hd)
  have hlimits : ended.limits = s.limits := by rw [← hended]; rfl
  have hreload := State.reloadIdle_eq hopen
  generalize hreloaded : ended.reloadIdle c = reloaded at heq hreload ⊢
  have haside : reloaded.aside = ended.aside := by rw [hreload]; rfl
  have hfixed : (reloaded.reportHits hits).fixed = ended.fixed := by
    rw [State.reportHits_fixed, hreload, State.setCtx_fixed]
  have haccess : reloaded.access = none := (State.access_of_aside haside).trans (by rw [← hended]; rfl)
  have hclaims : reloaded.claims = ⟨a.addr, c⟩ :: s.claims := (State.claims_of_aside haside).trans (by rw [← hended]; rfl)
  have hheld : reloaded.claimsHeld c ≠ 0 := by
    rw [State.claimsHeld, hclaims, List.countP_cons_of_pos (by rw [beq_self_eq_true])]
    exact Nat.succ_ne_zero _
  have hhits := State.reportHits_kept haccess hits
  have hwriter := WriterKept.reportHits haccess hheld hctx
  have hkept := hhits.aside.trans haside
  refine ⟨?mem, ?pre, fun h1 => ?header, fun j hj => ?bytes, ?outside, ?claims, ?own, fun d hd => ?others, ?pool, ?access,
    ?herr, ?hd, ?ending, ?last, ?grant, ?counters, ?job, ?epochSeq, ?regions, ?mode, fun hquiet => ?unwatched⟩
  case mem => rw [State.arbitrate_mem, State.mem_of_fixed hfixed, ← hended]; rfl
  case pre => exact State.slotIn_journalPlan (s.working a c e) a hf hn hslot' hwin
  case header =>
    exact State.slotIn_journalPlan_header (s.working a c e) a hf hn hslot' hwin (beq_iff_eq.2 h1) hslot
  case bytes => exact State.byte_journalPlan (s.working a c e) a hf hn hslot' hwin hj
  case outside =>
    have hout := State.sameOutside_journalPlan (s := s) (s.working a c e) a
    rw [State.journalWords_working] at hout
    exact hout
  case claims => rw [State.arbitrate_claims, State.claims_of_aside hhits.aside, hclaims]
  case own =>
    obtain ⟨p, hp⟩ := hwriter.own _ _ ((congrArg (fun t : State => t.ctx c) hreload).trans (State.ctx_setCtx_self ..))
    rw [State.recorded_grown] at hp
    exact ⟨p, by rw [State.ctx, State.arbitrate_contexts]; exact hp⟩
  case others =>
    rw [State.ctx, State.arbitrate_contexts]
    refine (hwriter.others d hd).trans ?_
    rw [hreload]
    exact ((ended.setCtx_ctx c d _).trans (if_neg hd)).trans (hothers d hd)
  case pool => rw [State.arbitrate_pool, hwriter.pool, hreload, ← hended]; rfl
  case access => rw [State.arbitrate_access, State.access_of_aside hhits.aside, haccess]
  case herr => rw [State.arbitrate_herr, State.herr_of_aside hkept, ← hended]; rfl
  case hd => rw [State.arbitrate_hd, State.hd_of_aside hkept, ← hended]; rfl
  case ending => rw [State.arbitrate_lastEnding, State.lastEnding_of_aside hkept, ← hended]; rfl
  case last => rw [State.arbitrate_lastHolder, State.lastHolder_of_aside hkept, ← hended]; rfl
  case grant => rw [State.arbitrate_grant, State.grant_of_aside hkept, ← hended]; rfl
  case counters => rw [State.arbitrate_counters, hhits.counters, hreload, ← hended]; rfl
  case job => rw [State.arbitrate_job, State.job_of_aside hkept, ← hended]; rfl
  case epochSeq => rw [State.arbitrate_epochSeq, hwriter.epochSeq, hreload, ← hended]; rfl
  case regions => rw [State.regions_of_fixed (State.arbitrate_fixed _), State.regions_of_fixed hfixed, ← hended]; rfl
  case mode => rw [State.arbitrate_mode, State.mode_of_fixed hfixed, ← hended]; rfl
  case unwatched =>
    obtain ⟨rfl, rfl⟩ := hstill (State.watches_false hquiet)
    have hnone : reloaded.reportHits [] = reloaded := rfl
    rw [hnone]
    refine ⟨?_, ?_, ?_, ⟨(s.working a c e).recorded (s.grown e), ?_⟩, ?_⟩
    · rw [State.arbitrate_guards, hreload, ← hended]; rfl
    · rw [State.arbitrate_sources, hreload, ← hended]; rfl
    · rw [State.arbitrate_queue, hreload, ← hended]; rfl
    · rw [State.ctx, State.arbitrate_contexts, hreload, hlimits]
      exact State.ctx_setCtx_self ..
    · have hfull : e.fill = 15 ↔ ¬ e.fill < 15 := by omega
      have hwarned : (if e.fill = 15 ∧ s.limits.lowwater ≤ s.pool.length ∧ s.pool.length - 1 < s.limits.lowwater then
            s.raise .lowWater none none none (BitVec.ofNat 16 (s.pool.length - 1)) none
          else s) = s.lowWarned e := by
        rw [State.lowWarned]
        simp only [hfull]
      intro warned
      rw [show warned = s.lowWarned e from hwarned, State.arbitrate_eq, hreload, ← hended]
      exact ⟨rfl, rfl, rfl⟩

end Sys2Proof.Machine
end

section
/-! SUPPORT. The Replay Engine: which step is next, how its grant runs, and the marker, freeing and format grants carried to their ends. -/

namespace Sys2Proof.Machine

variable {s : State}

/-! ### Positions in a chain (R101) -/

theorem prevSeg_of_mem {front back : List ChainEntry} {x y : ChainEntry}
    (h : (front ++ x :: y :: back).Pairwise (fun a b => a.seg ≠ b.seg)) :
    prevSeg (front ++ x :: y :: back) y.seg = some x.seg := by
  induction front with
  | nil => exact if_pos rfl
  | cons z front ih =>
    have hrest := ih (List.pairwise_cons.1 h).2
    cases front with
    | nil =>
      have hne : x.seg ≠ y.seg := (List.pairwise_cons.1 (List.pairwise_cons.1 h).2).1 y List.mem_cons_self
      exact (if_neg hne).trans hrest
    | cons w front =>
      have hne : w.seg ≠ y.seg := (List.pairwise_cons.1 (List.pairwise_cons.1 h).2).1 y
        (List.mem_append_right _ (List.mem_cons_of_mem x List.mem_cons_self))
      exact (if_neg hne).trans hrest

theorem prevSeg_of_not_mem {chain : List ChainEntry} {n : Nat} (h : ∀ y ∈ chain.tail, y.seg ≠ n) : prevSeg chain n = none := by
  induction chain with
  | nil => rfl
  | cons x chain ih =>
    cases chain with
    | nil => rfl
    | cons y chain =>
      exact (if_neg (h y List.mem_cons_self)).trans (ih fun z hz => h z (List.mem_cons_of_mem y hz))

theorem firstPhase_of_marked {e : Epoch} (h : e.markerWritten = true) (p : Phase) (z : Option SlotPos) :
    firstPhase p e z = .freeing := if_pos h

theorem firstPhase_of_unmarked {e : Epoch} (h : e.markerWritten = false) (p : Phase) (z : Option SlotPos) :
    firstPhase p e z = match p with
      | .rollingBack _ => startPhase e z
      | _ => .marker := if_neg (Bool.eq_false_iff.1 h)

/-- Settles O41: the engine's record, or the first phase of the entry at the head; and the step to the next older record. -/
theorem headJobIsChosen : Obligations.HeadJobIsChosen := by
  refine ⟨fun s j hj => ?record, fun s hj hq => ?idle, fun s q rest p e hj hq hc => ?head, fun chain n k hk => ?inside,
    fun front back x y h => ?across, fun x back h => ?last⟩
  case record => rw [State.headJob, hj]
  case idle => rw [State.headJob, hj, hq]
  case head =>
    have hjob : s.headJob = some ⟨q.ctx, firstPhase p e q.resume⟩ := by
      simp only [State.headJob, hj, hq, hc]
    refine ⟨fun hm => ?marked, fun hm hp => ?marker, fun k hm hp => ?rollback⟩
    case marked => rw [hjob, firstPhase_of_marked hm]
    case marker =>
      rw [hjob, firstPhase_of_unmarked hm]
      obtain rfl | rfl := hp <;> rfl
    case rollback =>
      have hfirst : firstPhase p e q.resume = startPhase e q.resume := by rw [hp, firstPhase_of_unmarked hm]
      rw [hjob, hfirst]
      refine ⟨fun z hz h1 => ?_, fun x hz hx h2 => ?_, fun hz h1 => ?_⟩
      · rw [hz]
        exact congrArg (fun p => some (Job.mk q.ctx p)) (if_neg (Nat.ne_of_gt h1))
      · rw [hz, startPhase, hx]
        exact congrArg (fun p => some (Job.mk q.ctx p)) (if_neg (Nat.sub_ne_zero_of_lt h2))
      · rw [hz, startPhase, h1]; rfl
  case inside => rw [phaseAfter, nextOlder, if_pos hk]
  case across =>
    have hprev : nextOlder (front ++ x :: y :: back) ⟨y.seg, 1⟩ = some ⟨x.seg, 14⟩ :=
      (if_neg (Nat.lt_irrefl 1)).trans (congrArg (Option.map fun n => (⟨n, 14⟩ : SlotPos)) (prevSeg_of_mem h))
    rw [phaseAfter, hprev]
  case last =>
    have hnone : prevSeg (x :: back) x.seg = none :=
      prevSeg_of_not_mem fun y hy => ((List.pairwise_cons.1 h).1 y hy).symm
    have hprev : nextOlder (x :: back) ⟨x.seg, 1⟩ = none :=
      (if_neg (Nat.lt_irrefl 1)).trans (congrArg (Option.map fun n => (⟨n, 14⟩ : SlotPos)) hnone)
    rw [phaseAfter, hprev]

/-! ### An engine grant -/

theorem State.engineRow_start {t : Task} (hh : s.holder = some .be) (hg : s.grant = none) (hm : s.mode ≠ .frozen)
    (hd : s.dueTask = some t) {mine : Task → Bool} (hy : mine t = true) (x : Extent) :
    s.engineRow mine x = (s.startTask t).afterStart x := by
  have hstart : (s.dueTask.filter mine).map s.startTask = some (s.startTask t) := by
    rw [hd, Option.filter_some_pos hy]; rfl
  rw [State.engineRow, hstart, State.grantRow_start hh hg hm]

section
variable {j : Job} {t : Task} (hw : s.work = .idle ∨ ∃ v, s.work = .replay v) (hj : s.headJob = some j)
include hw hj

theorem State.dueTask_of_job (ht : s.jobTask j = some t) : s.dueTask = some t := by
  have hbind : s.headJob.bind s.jobTask = some t := by rw [hj]; exact ht
  obtain hw | ⟨v, hw⟩ := hw
  · rw [State.dueTask, hw]; exact hbind
  · rw [State.dueTask, hw]; exact hbind

theorem State.startTask_of_job (t : Task) :
    s.startTask t = State.startGrant { s with job := some j } t (s.taskPlan t) := by
  obtain hw | ⟨v, hw⟩ := hw
  · rw [State.startTask, hw, hj]
  · rw [State.startTask, hw, hj]

/-- A step of the head job carried on: the engine's record is made, and the accesses of the step follow (R95). -/
theorem State.engineRow_of_job (hh : s.holder = some .be) (hg : s.grant = none) (hm : s.mode ≠ .frozen)
    (ht : s.jobTask j = some t) {mine : Task → Bool} (hy : mine t = true) (x : Extent) :
    s.engineRow mine x = (State.startGrant { s with job := some j } t (s.taskPlan t)).afterStart x := by
  rw [State.engineRow_start hh hg hm (State.dueTask_of_job hw hj ht) hy, State.startTask_of_job hw hj]

end

section
variable {c : CtxNum} {p : Phase} {e : Epoch} (hc : s.ctx c = .active p e) (hne : e.chain ≠ [])
include hc hne

theorem State.jobTask_restore (z : SlotPos) :
    s.jobTask ⟨c, .restore z⟩ = some (.restore c z (s.judge c e z) (s.ownsWord c (s.judge c e z))) := by
  simp only [State.jobTask, hc, List.isEmpty_iff, hne, if_false]

theorem State.jobTask_freeing : s.jobTask ⟨c, .freeing⟩ = some (.freeing c) := by
  simp only [State.jobTask, hc, List.isEmpty_iff, hne, if_false]

end

theorem State.jobTask_marker {c : CtxNum} {p : Phase} {e : Epoch} (hc : s.ctx c = .active p e) (hne : e.chain ≠ []) :
    (p = .committing → s.jobTask ⟨c, .marker⟩ = some (.commitMarker c)) ∧
    (p = .discarding → s.jobTask ⟨c, .marker⟩ = some (.discardMarker c)) ∧
    (∀ k, p = .rollingBack k → s.jobTask ⟨c, .marker⟩ = some (.abortMarker c)) := by
  refine ⟨?_, ?_, fun k => ?_⟩ <;>
    (rintro rfl; simp only [State.jobTask, hc, List.isEmpty_iff, hne, if_false])

/-! ### Markers (R97, R105, R109) -/

theorem State.markerPlan_of_last {c : CtxNum} {p : Phase} {e : Epoch} {x : ChainEntry} (hc : s.ctx c = .active p e)
    (hx : e.chain.getLast? = some x) (kind : RecordKind) (flag : Word) :
    s.markerPlan c kind flag = s.recordWrites x.seg e.fill
      (markerRecord kind flag s.gen c e.source x.idx e.fill e.seq e.preWritten) (.marker c) := by
  simp only [State.markerPlan, hc, Context.epoch, hx]

/-- The chip and memory after the writes of a marker. -/
theorem State.performAll_marker {t : State} {c : CtxNum} {p : Phase} {e : Epoch} (hc : t.ctx c = .active p e) (n k : Nat)
    (r : Record) :
    t.performAll (s.recordWrites n k r (.marker c)) =
      (t.setCtx c (.active p { e with markerWritten := true })).withMem
        (planMemory t.mem (s.recordWrites n k r (.marker c))) := by
  rw [State.performAll_eq, State.marks_recordWrites]
  exact congrArg (State.withMem · _) (State.mapEpoch_of_active hc _)

/-- Settles O42: the four writes of the marker, and what the end of each of the three grants adds. -/
theorem markersAreWritten : Obligations.MarkersAreWritten := by
  intro s c p e x hh hg hm hw hj hc hx hf hn hfill
  have hne : e.chain ≠ [] := fun h => by rw [h] at hx; exact nomatch hx
  obtain ⟨hcommit, hdiscard, habort⟩ := State.jobTask_marker hc hne
  let kind : RecordKind := if p = .committing then .commit else .abort
  let flag : Word := if p = .discarding then 1#32 else 0#32
  let r := markerRecord kind flag s.gen c e.source x.idx e.fill e.seq e.preWritten
  let m := planMemory s.mem (s.recordWrites x.seg e.fill r (.marker c))
  let carried (t : Task) : State :=
    (State.setCtx { s with job := some ⟨c, .marker⟩, grant := some ⟨t, [], [], []⟩ } c
      (.active p { e with markerWritten := true })).withMem m
  have hcarried (t : Task) : (State.startGrant { s with job := some ⟨c, .marker⟩ } t []).performAll
        (s.recordWrites x.seg e.fill r (.marker c)) = carried t :=
    State.performAll_marker (t := State.startGrant { s with job := some ⟨c, .marker⟩ } t []) hc ..
  have hfree (t : Task) : (carried t).freePort = (carried t).freed .be := State.freePort_eq_freed hh
  have hrow {t : Task} (ht : s.jobTask ⟨c, .marker⟩ = some t)
      (hplan : s.taskPlan t = s.recordWrites x.seg e.fill r (.marker c)) {mine : Task → Bool} (hy : mine t = true) :
      s.engineRow mine .toEnd = ((carried t).finish ⟨t, [], [], []⟩).arbitrate := by
    rw [State.engineRow_of_job hw hj hh hg hm ht hy, State.startGrant_toEnd, hplan, hcarried,
      State.finishGrant_of_grant (y := ⟨t, [], [], []⟩) rfl]
  have hreleased {t : Task} (ht : s.jobTask ⟨c, .marker⟩ = some t)
      (hplan : s.taskPlan t = s.recordWrites x.seg e.fill r (.marker c)) {mine : Task → Bool} (hy : mine t = true)
      (hend : (carried t).finish ⟨t, [], [], []⟩ = (carried t).finishReleasingMarker c) :
      s.engineRow mine .toEnd = (State.deliver { (s.freed .be).setCtx c (.active p { e with markerWritten := true }) with
        mem := m, job := some ⟨c, .freeing⟩, claims := s.claims.filter (fun k => k.owner ≠ c) }
        ⟨none, (s.claims.filter (fun k => k.owner = c)).map (·.addr), false⟩).arbitrate := by
    have hleft : s.claims.filter (fun k => !(k.owner == c)) = s.claims.filter (fun k => decide (k.owner ≠ c)) :=
      List.filter_congr fun k _ => decide_not.symm
    rw [hrow ht hplan hy, hend, State.finishReleasingMarker, hfree, ← hleft]
    rfl
  refine ⟨m, s.slotIn_recordWrites hf s.mem hn (Nat.lt_succ_of_le hfill) r _,
    s.sameOutside_recordWrites s.mem x.seg e.fill r _, ?commit, ?discard, ?abort⟩
  case commit =>
    intro hp
    have hplan : s.taskPlan (.commitMarker c) = s.recordWrites x.seg e.fill r (.marker c) := by
      simp only [r, kind, flag, hp]
      exact State.markerPlan_of_last hc hx .commit 0#32
    exact congrArg Host.Outcome.next (hreleased (hcommit hp) hplan rfl rfl)
  case discard =>
    intro hp
    have hplan : s.taskPlan (.discardMarker c) = s.recordWrites x.seg e.fill r (.marker c) := by
      simp only [r, kind, flag, hp]
      exact State.markerPlan_of_last hc hx .abort 1#32
    exact congrArg Host.Outcome.next (hreleased (hdiscard hp) hplan rfl rfl)
  case abort =>
    intro k hp
    have hplan : s.taskPlan (.abortMarker c) = s.recordWrites x.seg e.fill r (.marker c) := by
      simp only [r, kind, flag, hp]
      exact State.markerPlan_of_last hc hx .abort 0#32
    refine congrArg Host.Outcome.next ((hrow (habort k hp) hplan rfl).trans ?_)
    show (((carried (.abortMarker c)).freePort).setPhase c .freeing).arbitrate = _
    rw [hfree]
    rfl

end Sys2Proof.Machine
end

section
/-! SUPPORT. Freeing and format grants carried to their ends. -/

namespace Sys2Proof.Machine

variable {s : State}

/-! ### Format (R143) -/

theorem State.startTask_of_format {n : Nat} (hw : s.work = .format n) :
    s.startTask .formatStep = s.startGrant .formatStep (s.recordWrites n 0 (blankRecord s.gen) .quiet) := by
  unfold State.startTask State.taskPlan State.formatPlan
  rw [hw]

theorem State.finishFormat_of_more {n : Nat} (hw : s.work = .format n) (hn : n + 1 < s.nseg) :
    s.finishFormat = { s.freePort with work := .format (n + 1) } := by
  simp only [State.finishFormat, hw, hn, decide_true, Bool.true_or, if_true]

theorem State.finishFormat_of_last {n : Nat} (hw : s.work = .format n) (hn : ¬ n + 1 < s.nseg) (hm : s.mode ≠ .frozen) :
    s.finishFormat = s.freePort.formatDone := by
  simp only [State.finishFormat, hw, hn, decide_false, Bool.false_or, beq_eq_false_iff_ne.2 hm, Bool.false_eq_true, if_false]

theorem descriptor_blank : ∀ g : Byte, descriptor .blank g 0 0 0 0 = 0#4 ++ g ++ 0#20 := by decide

/-- Settles O46: the four writes of the BLANK record, and the two ends of the step. -/
theorem formatStepsWriteBlanks : Obligations.FormatStepsWriteBlanks := by
  intro s n hh hg hw hmode hf hn
  let r := blankRecord s.gen
  let m := planMemory s.mem (s.recordWrites n 0 r .quiet)
  have hslot : s.slotIn m n 0 = r := s.slotIn_recordWrites hf s.mem hn (by decide) r _
  let carried : State := { s with mem := m, grant := some ⟨.formatStep, [], [], []⟩ }
  have hrow : exec (.formatStep .toEnd) s = .next carried.finishFormat.arbitrate := by
    have hdue : s.dueTask = some .formatStep := by rw [State.dueTask, hw]
    refine congrArg Host.Outcome.next ((State.engineRow_start hh hg (by rw [hmode]; nofun) hdue rfl _).trans ?_)
    rw [State.startTask_of_format hw, State.startGrant_toEnd, State.performAll_eq, State.marks_recordWrites]
    rfl
  have hfree : carried.freePort = carried.freed .be := State.freePort_eq_freed hh
  refine ⟨m, ?record, s.sameOutside_recordWrites s.mem n 0 r _, fun hmore => ?more, fun hlast => ?last⟩
  case record =>
    rw [hslot]
    refine ⟨?_, rfl, rfl, seqField_append .., newRecord_passes _ _ _ _ ?_ ?_⟩
    · exact descriptor_blank s.gen
    · rw [kindField_descriptor]; decide
    · rw [kindField_descriptor]; decide
  case more =>
    rw [hrow, State.finishFormat_of_more (s := carried) hw hmore, hfree]
    rfl
  case last =>
    rw [hrow, State.finishFormat_of_last (s := carried) hw (Nat.not_lt_of_le (Nat.le_of_eq hlast.symm))
      (by show s.mode ≠ _; rw [hmode]; nofun), hfree]
    rfl

/-! ### Freeing (R40, R98, R99) -/

theorem State.freeingPlan_of_chain {c : CtxNum} {p : Phase} {e : Epoch} {x : ChainEntry} {rest : List ChainEntry}
    (hc : s.ctx c = .active p e) (hx : e.chain = x :: rest) :
    s.freeingPlan c =
      [(PortOp.write (s.slotAddr x.seg 0 0) allBytes (descriptor .released s.gen x.idx 0 c e.source)).plain] := by
  simp only [State.freeingPlan, hc, Context.epoch, hx]

section
variable {c : CtxNum} {p : Phase} {e : Epoch} {x : ChainEntry} (hc : s.ctx c = .active p e)
include hc

theorem State.finishFreeing_of_more {rest : List ChainEntry} (hx : e.chain = x :: rest) (hr : rest ≠ []) :
    s.finishFreeing c = State.deliver (((s.freePort.returnSegs [x.seg]).setCtx c
      (.active p { e with chain := rest })).setPhase c .freeing) ⟨none, [], true⟩ := by
  simp only [State.finishFreeing, hc, hx, List.isEmpty_iff, hr, if_false]

theorem State.finishFreeing_of_last (hx : e.chain = [x]) :
    s.finishFreeing c = State.deliver ((s.freePort.returnSegs [x.seg]).endJob c p e) ⟨none, [], true⟩ := by
  simp only [State.finishFreeing, hc, hx, List.isEmpty_nil, if_true]

end

/-- The tally of a job's end and its completion event are of different fields. -/
theorem State.tallyEnd_raise (x : CtxNum) (k c i d n a) :
    (s.raise k c i d n a).tallyEnd x = (s.tallyEnd x).raise k c i d n a := by
  have hwork : (s.raise k c i d n a).work = s.work := State.work_of_fixed (State.raise_fixed ..)
  unfold State.tallyEnd
  rw [hwork]
  cases s.work with
  | replay r =>
    dsimp only
    rw [State.raise_eq_of_queue (s := s) (t := { s with work := .replay (r.tally x) }) rfl rfl rfl rfl rfl]
    rw [State.raise_eq]
  | idle | format n | survey n l | judge r q | rebuild r l => rfl

/-- Whether an engine step leaves work for the engine queue does not change what it reports (R69). -/
def QueueKept (s t : State) : Prop := s.queue ≠ [] → t.queue ≠ []

theorem QueueKept.keeps : Keeps QueueKept where
  trans h h' := h' ∘ h
  quiet {s t} e hq := by
    have h : s.queue = t.queue := show s.tables.queue = t.tables.queue by rw [e]
    rw [← h]; exact hq
  raise s k c i d n a hq := by rw [State.raise_queue]; exact hq
  takeRollback s c k hq := by
    by_cases hopen : ∃ i e, s.ctx c = .active (.opened i) e
    · obtain ⟨i, e, hc⟩ := hopen
      by_cases hn : s.claimsHeld c = 0
      · rw [State.takeRollback_of_empty hc hn, State.raise_queue]; exact hq
      · rw [State.takeRollback_of_claims hc hn]
        exact fun h => hq (List.append_eq_nil_iff.1 h).1
    · rw [State.takeRollback_of_not_open fun i e h => hopen ⟨i, e, h⟩]; exact hq

theorem State.afterEngine_of_idle (hw : s.work = .idle) : s.afterEngine = s := by rw [State.afterEngine, hw]

theorem State.afterEngine_of_replay {v : Recovery} (hw : s.work = .replay v) :
    s.afterEngine = if s.mode = .recovering ∧ s.queue = [] then s.finishReplay v else s := by
  rw [State.afterEngine, hw]
  simp only [Bool.and_eq_true, beq_iff_eq, List.isEmpty_iff]

theorem State.afterEngine_of_queue (hw : s.work = .idle ∨ (∃ v, s.work = .replay v) ∧ s.queue ≠ []) :
    s.afterEngine = s := by
  obtain hw | ⟨⟨v, hw⟩, hq⟩ := hw
  · exact State.afterEngine_of_idle hw
  · rw [State.afterEngine_of_replay hw, if_neg fun h => hq h.2]

/-- Settles O45: the one write of the step, and its end with segments left and with the last one. -/
theorem freeingStepReturnsSegment : Obligations.FreeingStepReturnsSegment := by
  intro s c p e x rest hh hg hm hw hj hc hx
  have hwork : s.work = .idle ∨ ∃ v, s.work = .replay v := hw.imp_right fun ⟨v, hv, _⟩ => ⟨v, hv⟩
  have hne : e.chain ≠ [] := by rw [hx]; exact List.cons_ne_nil _ _
  let m := Memory.putWord s.mem (s.slotAddr x.seg 0 0) allBytes (descriptor .released s.gen x.idx 0 c e.source)
  let carried : State := { s with job := some ⟨c, .freeing⟩, mem := m, grant := some ⟨.freeing c, [], [], []⟩ }
  have hrow : exec (.freeingStep .toEnd) s = .next ((carried.finishFreeing c).afterEngine).arbitrate := by
    refine congrArg Host.Outcome.next
      ((State.engineRow_of_job hwork hj hh hg hm (State.jobTask_freeing hc hne) rfl _).trans ?_)
    rw [State.startGrant_toEnd, show s.taskPlan (.freeing c) = _ from State.freeingPlan_of_chain hc hx]
    rfl
  have hfree : carried.freePort = carried.freed .be := State.freePort_eq_freed hh
  refine ⟨m, Memory.word_putWord_all .., Memory.sameOutside_putWord _ _ _ _ List.mem_cons_self, ?_⟩
  intro freed
  refine ⟨fun hr => ?more, fun hr => ?last⟩
  case more =>
    rw [hrow, State.finishFreeing_of_more (s := carried) hc hx hr, State.afterEngine_of_queue, hfree]
    · rfl
    · obtain hw | ⟨v, hw, hq⟩ := hw
      · exact .inl ((State.work_of_fixed (State.deliver_fixed ..)).trans hw)
      · exact .inr ⟨⟨v, (State.work_of_fixed (State.deliver_fixed ..)).trans hw⟩, QueueKept.keeps.deliver _ _ hq⟩
  case last =>
    subst hr
    intro work ended closed
    have hclosed (t : State) : t.afterEngine = closed t := by
      show _ = (match t.work with | .replay v => _ | _ => _)
      cases hwt : t.work with
      | replay v => exact State.afterEngine_of_replay hwt
      | idle | format n | survey n l | judge r q | rebuild r l => rw [State.afterEngine, hwt]
    have hended : (((carried.freed .be).returnSegs [x.seg]).dropHead.setCtx c .free).tallyEnd c = ended := by
      have hset (w : Work) (h : work = w) :
          { freed.setCtx c .free with queue := s.queue.tail, job := none, work := w } = ended := by rw [← h]
      show (match s.work with | .replay r => _ | _ => _) = _
      cases hws : s.work with
      | replay v =>
        refine Eq.trans ?_ (hset (.replay (v.tally c)) ?_)
        · rfl
        · simp only [work, hws, Recovery.tally, List.contains_iff_mem]
      | idle | format n | survey n l | judge r q | rebuild r l =>
        refine Eq.trans ?_ (hset s.work ?_)
        · rfl
        · simp only [work, hws]
    have hend (k : EventKind) (code : Option Byte) (n : BitVec 16)
        (hevent : ∀ t : State, t.completionEvent c p e = t.raise k (some c) (some e.source) code n none) :
        exec (.freeingStep .toEnd) s =
          .next ((closed ((ended.raise k (some c) (some e.source) code n none).deliver ⟨none, [], true⟩)).arbitrate) := by
      rw [hrow, State.finishFreeing_of_last (s := carried) hc hx, hfree, State.endJob, hevent, State.tallyEnd_raise, hended,
        hclosed]
    refine ⟨fun hp => hend _ _ _ fun t => ?_, fun k hp => hend _ _ _ fun t => ?_, fun hp => hend _ _ _ fun t => ?_⟩ <;>
      (subst hp; rfl)

end Sys2Proof.Machine
end

section
/-! SUPPORT. Restore steps: what the record's judgement can be, the accesses of a restore, whole or cut short, and the three ends of the step. -/

namespace Sys2Proof.Machine

variable {s : State}

/-! ### The judgement (R102) -/

section
variable {c : CtxNum} {e : Epoch} {z : SlotPos}

theorem State.judge_passedOver (hm : (s.slot z.seg z.slot).belongs (s.identity c e z.seg) z.slot = true)
    (hk : (s.slot z.seg z.slot).isKind .restored = true) (hp : (s.slot z.seg z.slot).passes = true) :
    s.judge c e z = .passedOver := by
  simp only [State.judge, hm, hk, hp, Bool.and_true, if_true]

theorem Record.not_restored_of_pre {r : Record} (h : r.isKind .pre = true) : r.isKind .restored = false := by
  have hk : kindField r.w0 = RecordKind.pre.code := beq_iff_eq.1 h
  rw [Record.isKind, hk]; rfl

theorem State.judge_fault {f : FaultKind}
    (h : (f = .foreign ∧ ((s.slot z.seg z.slot).belongs (s.identity c e z.seg) z.slot = false ∨
          ((s.slot z.seg z.slot).isKind .pre = false ∧ (s.slot z.seg z.slot).isKind .restored = false))) ∨
        (f = .check ∧ (s.slot z.seg z.slot).belongs (s.identity c e z.seg) z.slot = true ∧
          ((s.slot z.seg z.slot).isKind .pre = true ∨ (s.slot z.seg z.slot).isKind .restored = true) ∧
          (s.slot z.seg z.slot).passes = false) ∨
        (f = .check ∧ (s.slot z.seg z.slot).belongs (s.identity c e z.seg) z.slot = true ∧
          (s.slot z.seg z.slot).isKind .pre = true ∧ (s.slot z.seg z.slot).passes = true ∧
          s.inWindow (addrField (s.slot z.seg z.slot).w1) = true)) :
    s.judge c e z = .fault f := by
  unfold State.judge
  dsimp only
  obtain ⟨rfl, hm | ⟨hp, hr⟩⟩ | ⟨rfl, hm, hk, hp⟩ | ⟨rfl, hm, hk, hp, hw⟩ := h
  · rw [hm]; rfl
  · rw [hp, hr, Bool.and_false, Bool.or_false, Bool.not_false, Bool.or_true]; rfl
  · have hkind : ((s.slot z.seg z.slot).isKind .pre || (s.slot z.seg z.slot).isKind .restored) = true := by
      obtain hk | hk := hk <;> simp only [hk, Bool.true_or, Bool.or_true]
    rw [hm, hkind, hp, Bool.and_false]; rfl
  · rw [hm, hk, Record.not_restored_of_pre hk, hp, hw]; rfl

theorem State.judge_restorable (hm : (s.slot z.seg z.slot).belongs (s.identity c e z.seg) z.slot = true)
    (hk : (s.slot z.seg z.slot).isKind .pre = true) (hp : (s.slot z.seg z.slot).passes = true)
    (hw : s.inWindow (addrField (s.slot z.seg z.slot).w1) = false) :
    s.judge c e z = .restorable (addrField (s.slot z.seg z.slot).w1) (s.slot z.seg z.slot).w2 := by
  unfold State.judge
  dsimp only
  rw [hm, hk, Record.not_restored_of_pre hk, hp, hw]; rfl

end

/-! ### The accesses of a restore (R103) -/

/-- A restore that reads its slot alone leaves memory and the chip. -/
theorem State.performAll_slotReads (t : State) (n k : Nat) : t.performAll (s.slotReads n k) = t := by
  rw [State.performAll_eq, State.marks_slotReads, State.planMemory_slotReads]; rfl

/-- The writes of a restore: the word, and the record's descriptor. -/
def State.restoreWrites (s : State) (c : CtxNum) (z : SlotPos) (a : Addr) (pre : Word) : List PlannedOp :=
  [⟨.write a allBytes pre,
      if s.watches a then .watched a pre (some c) ((s.ctx c).epoch.elim 0 (·.source)) true else .quiet⟩,
    ⟨.write (s.slotAddr z.seg z.slot 0) allBytes
      (withKind RecordKind.restored.code (s.word (s.slotAddr z.seg z.slot 0))), .restored c a⟩]

/-- The reads of a restore. -/
def State.restoreReads (s : State) (z : SlotPos) (a : Addr) : List PlannedOp :=
  s.slotReads z.seg z.slot ++ if s.watches a then [(PortOp.read a).plain] else []

theorem State.restorePlan_eq (c : CtxNum) (z : SlotPos) (a : Addr) (pre : Word) :
    s.restorePlan c z (.restorable a pre) = s.restoreReads z a ++ s.restoreWrites c z a pre :=
  (List.append_assoc ..).symm

theorem State.restoreReads_reads {z : SlotPos} {a : Addr} {p : PlannedOp} (hp : p ∈ s.restoreReads z a) :
    ∃ b, p = (PortOp.read b).plain := by
  obtain hp | hp := List.mem_append.1 hp
  · simp only [State.slotReads, List.mem_cons, List.not_mem_nil, or_false] at hp
    obtain rfl | rfl | rfl | rfl := hp <;> exact ⟨_, rfl⟩
  · split at hp
    · exact ⟨a, List.mem_singleton.1 hp⟩
    · exact absurd hp List.not_mem_nil

theorem State.restoreReads_length (z : SlotPos) (a : Addr) : (s.restoreReads z a).length ≤ 5 := by
  unfold State.restoreReads
  cases s.watches a <;> simp [State.slotReads]

theorem planMemory_of_reads {ps : List PlannedOp} (h : ∀ p ∈ ps, ∃ b, p = (PortOp.read b).plain) (m : List Host.Cell) :
    planMemory m ps = m := by
  induction ps generalizing m with
  | nil => rfl
  | cons p ps ih =>
    obtain ⟨b, rfl⟩ := h p List.mem_cons_self
    exact ih (fun q hq => h q (List.mem_cons_of_mem _ hq)) m

theorem State.marks_of_reads {ps : List PlannedOp} (h : ∀ p ∈ ps, ∃ b, p = (PortOp.read b).plain) (t : State) :
    t.marks ps = t := by
  induction ps generalizing t with
  | nil => rfl
  | cons p ps ih =>
    obtain ⟨b, rfl⟩ := h p List.mem_cons_self
    exact ih (fun q hq => h q (List.mem_cons_of_mem _ hq)) t

/-- Memory after a restore's word, and after its descriptor too. -/
def State.restoredWord (s : State) (a : Addr) (pre : Word) : List Host.Cell := Memory.putWord s.mem a allBytes pre

/-- Memory after a whole restore. -/
def State.restoredMem (s : State) (z : SlotPos) (a : Addr) (pre : Word) : List Host.Cell :=
  Memory.putWord (s.restoredWord a pre) (s.slotAddr z.seg z.slot 0) allBytes
    (withKind RecordKind.restored.code (s.word (s.slotAddr z.seg z.slot 0)))

theorem State.planMemory_restorePlan (c : CtxNum) (z : SlotPos) (a : Addr) (pre : Word) :
    planMemory s.mem (s.restorePlan c z (.restorable a pre)) = s.restoredMem z a pre := by
  rw [State.restorePlan_eq, planMemory_append, planMemory_of_reads fun _ => State.restoreReads_reads]; rfl

/-- A restore cut after some of its accesses has written nothing, the word, or the word and the descriptor. -/
theorem State.planMemory_take_restorePlan (c : CtxNum) (z : SlotPos) (a : Addr) (pre : Word) (n : Nat) :
    planMemory s.mem ((s.restorePlan c z (.restorable a pre)).take n) = s.mem ∨
      planMemory s.mem ((s.restorePlan c z (.restorable a pre)).take n) = s.restoredWord a pre ∨
      planMemory s.mem ((s.restorePlan c z (.restorable a pre)).take n) = s.restoredMem z a pre := by
  have hreads : planMemory s.mem ((s.restoreReads z a).take n) = s.mem :=
    planMemory_of_reads (fun _ hp => State.restoreReads_reads (List.mem_of_mem_take hp)) _
  rw [State.restorePlan_eq, List.take_append, planMemory_append, hreads]
  match n - (s.restoreReads z a).length with
  | 0 => exact .inl rfl
  | 1 => exact .inr (.inl rfl)
  | k + 2 =>
    have hall : (s.restoreWrites c z a pre).take (k + 2) = s.restoreWrites c z a pre :=
      List.take_of_length_le (Nat.le_add_left 2 k)
    rw [hall]
    exact .inr (.inr rfl)

section
variable {z : SlotPos} {a : Addr} {pre : Word} (hf : s.areaFits) (hn : z.seg < s.nseg) (hk : z.slot ≤ 15)
  (hw : s.inWindow a = false)

theorem State.sameOutside_restoredWord : Memory.SameOutside s.mem (s.restoredWord a pre) [a, s.slotAddr z.seg z.slot 0] :=
  Memory.sameOutside_putWord _ _ _ _ List.mem_cons_self

theorem State.sameOutside_restoredMem : Memory.SameOutside s.mem (s.restoredMem z a pre) [a, s.slotAddr z.seg z.slot 0] :=
  .trans State.sameOutside_restoredWord
    (Memory.sameOutside_putWord _ _ _ _ (List.mem_cons_of_mem _ List.mem_cons_self))

theorem State.word_restoredWord : Memory.word (s.restoredWord a pre) a = pre := Memory.word_putWord_all ..

include hf hn hk hw

theorem State.word_restoredMem : Memory.word (s.restoredMem z a pre) a = pre :=
  (Memory.word_putWord_ne _ _ _ (s.ne_slotAddr hf hw hn (Nat.lt_succ_of_le hk) (by decide))).trans
    State.word_restoredWord

theorem State.slotIn_restoredWord : s.slotIn (s.restoredWord a pre) z.seg z.slot = s.slot z.seg z.slot := by
  have ne (i : Nat) (hi : i < 4) := (s.ne_slotAddr hf hw hn (Nat.lt_succ_of_le hk) hi).symm
  simp only [State.slotIn, State.restoredWord, Memory.word_putWord_ne _ _ _ (ne 0 (by decide)),
    Memory.word_putWord_ne _ _ _ (ne 1 (by decide)), Memory.word_putWord_ne _ _ _ (ne 2 (by decide)),
    Memory.word_putWord_ne _ _ _ (ne 3 (by decide))]
  rfl

/-- The record after the restore is the one before it with kind RESTORED (R29). -/
theorem State.slotIn_restoredMem :
    s.slotIn (s.restoredMem z a pre) z.seg z.slot =
      { s.slot z.seg z.slot with w0 := withKind RecordKind.restored.code (s.slot z.seg z.slot).w0 } := by
  have hbefore := State.slotIn_restoredWord (pre := pre) hf hn hk hw
  have ne (i : Nat) (hi : i < 4) (h0 : 0 ≠ i) : s.slotAddr z.seg z.slot i ≠ s.slotAddr z.seg z.slot 0 := fun h =>
    h0 (s.slotAddr_inj hf hn (Nat.lt_succ_of_le hk) hi hn (Nat.lt_succ_of_le hk) (by decide) h).2.2.symm
  rw [← hbefore]
  simp only [State.slotIn, State.restoredMem, Memory.word_putWord_ne _ _ _ (ne 1 (by decide) (by decide)),
    Memory.word_putWord_ne _ _ _ (ne 2 (by decide) (by decide)),
    Memory.word_putWord_ne _ _ _ (ne 3 (by decide) (by decide))]
  have hself := Memory.word_putWord_all (s.restoredWord a pre) (s.slotAddr z.seg z.slot 0)
    (withKind RecordKind.restored.code (s.word (s.slotAddr z.seg z.slot 0)))
  have hw0 : Memory.word (s.restoredWord a pre) (s.slotAddr z.seg z.slot 0) = s.word (s.slotAddr z.seg z.slot 0) :=
    congrArg Record.w0 hbefore
  rw [hw0]
  exact congrArg (fun w => Record.mk w _ _ _) hself

end

/-! ### The record after a restore (R29, R31, R32) -/

/-- A field below the kind stands when the kind is replaced. -/
theorem extractLsb'_withKind (k : BitVec 4) (w : Word) {i n : Nat} (h : i + n ≤ 28) :
    (withKind k w).extractLsb' i n = w.extractLsb' i n :=
  (BitVec.extractLsb'_append_eq_of_add_le (xhi := k) (xlo := w.extractLsb' 0 28) h).trans
    (BitVec.extractLsb'_extractLsb'_of_le h)

theorem Record.restored_isKind (r : Record) :
    Record.isKind { r with w0 := withKind RecordKind.restored.code r.w0 } .restored = true :=
  beq_iff_eq.2 (kindField_withKind ..)

theorem Record.belongs_iff (r : Record) (e : Identity) (k : Nat) :
    r.belongs e k = true ↔
      (r.isKind .pre = true ∨ r.isKind .restored = true ∨ r.isKind .commit = true ∨ r.isKind .abort = true) ∧
      genField r.w0 = e.gen ∧ ctxField r.w0 = e.ctx ∧ srcField r.w0 = e.src ∧ idxField r.w0 = e.idx ∧
      slotField r.w0 = k ∧ seqField r.w3 = e.seq := by
  simp only [Record.belongs, Bool.and_eq_true, Bool.or_eq_true, beq_iff_eq, and_assoc, or_assoc]

theorem Record.belongs_restored {r : Record} {e : Identity} {k : Nat} (h : r.belongs e k = true) :
    Record.belongs { r with w0 := withKind RecordKind.restored.code r.w0 } e k = true := by
  obtain ⟨-, hgen, hctx, hsrc, hidx, hslot, hseq⟩ := (r.belongs_iff e k).1 h
  refine (Record.belongs_iff _ e k).2 ⟨.inr (.inl r.restored_isKind), ?_, ?_, ?_, ?_, ?_, hseq⟩
  · exact (extractLsb'_withKind _ _ (by decide)).trans hgen
  · exact (congrArg BitVec.toFin (extractLsb'_withKind _ _ (by decide))).trans hctx
  · exact (congrArg BitVec.toFin (extractLsb'_withKind _ _ (by decide))).trans hsrc
  · exact (congrArg BitVec.toNat (extractLsb'_withKind _ _ (by decide))).trans hidx
  · exact (congrArg BitVec.toNat (extractLsb'_withKind _ _ (by decide))).trans hslot

/-! ### The grant -/

section
variable {c : CtxNum} {z : SlotPos} {p : Phase} {e : Epoch} {a : Addr} {pre : Word} (hh : s.holder = some .be)
  (hg : s.grant = none) (hm : s.mode ≠ .frozen) (hw : s.work = .idle ∨ ∃ v, s.work = .replay v)
  (hj : s.headJob = some ⟨c, .restore z⟩) (hc : s.ctx c = .active p e) (hne : e.chain ≠ [])
include hh hg hm hw hj hc hne

/-- A restore step begins with the engine's record and the accesses that its judgement asks for. -/
theorem exec_restoreStep_start {found : Judged} (hf : s.judge c e z = found) (x : Extent) :
    exec (.restoreStep x) s =
      .next ((State.startGrant { s with job := some ⟨c, .restore z⟩ } (.restore c z found (s.ownsWord c found))
        (s.restorePlan c z found)).afterStart x) := by
  subst hf
  exact congrArg Host.Outcome.next (State.engineRow_of_job hw hj hh hg hm (State.jobTask_restore hc hne z) rfl x)

end

/-- Settles O44: a restore cut short has written nothing, the word alone, or the word and then the descriptor. -/
theorem cutRestoreKeepsRecord : Obligations.CutRestoreKeepsRecord := by
  intro s c z k e n t u hh hg hm hw hj hc hne hf hn hk r a hmine hpre hpasses hwin ht hu r'
  have hjudge : s.judge c e z = .restorable a r.w2 := State.judge_restorable hmine hpre hpasses hwin
  have hmem : u.mem = planMemory s.mem ((s.restorePlan c z (.restorable a r.w2)).take n) := by
    rw [exec_restoreStep_start hh hg hm hw hj hc hne hjudge, State.startGrant_accesses] at ht
    cases ht
    cases hu
    exact State.performAll_mem ..
  have hword : u.word a = Memory.word u.mem a := rfl
  have hslot : r' = s.slotIn u.mem z.seg z.slot := rfl
  rw [hword, hslot]
  obtain h | h | h := State.planMemory_take_restorePlan (s := s) c z a r.w2 n
  · rw [hmem, h]
    exact ⟨.inl ⟨rfl, rfl⟩, hpasses, hmine, .refl _ _⟩
  · rw [hmem, h, State.slotIn_restoredWord hf hn hk hwin]
    exact ⟨.inr (.inl ⟨State.word_restoredWord, rfl⟩), hpasses, hmine, State.sameOutside_restoredWord⟩
  · rw [hmem, h, State.slotIn_restoredMem hf hn hk hwin]
    exact ⟨.inr (.inr ⟨State.word_restoredMem hf hn hk hwin, Record.restored_isKind _, rfl, rfl, rfl⟩),
      restored_passes r hpasses hpre, Record.belongs_restored hmine, State.sameOutside_restoredMem⟩

end Sys2Proof.Machine
end

section
/-! SUPPORT. Restore steps carried to their ends: passed over, faulted and restored. -/

namespace Sys2Proof.Machine

variable {s : State}

/-! ### What reports leave of a job's context -/

/-- The claims, the engine's record and a context that is not OPEN: what events, requests and reports leave. -/
structure ClosedKept (c : CtxNum) (s t : State) : Prop where
  claims : t.claims = s.claims
  job : t.job = s.job
  closed : (∀ i e, s.ctx c ≠ .active (.opened i) e) → t.ctx c = s.ctx c

theorem ClosedKept.keeps (c : CtxNum) : Keeps (ClosedKept c) where
  trans {s t u} h h' := by
    refine ⟨h'.claims.trans h.claims, h'.job.trans h.job, fun hc => ?_⟩
    have hfirst := h.closed hc
    exact (h'.closed (by rw [hfirst]; exact hc)).trans hfirst
  quiet {s t} e := by
    refine ⟨?_, ?_, fun _ => ?_⟩
    · show t.tables.claims = s.tables.claims; rw [e]
    · show t.tables.job = s.tables.job; rw [e]
    · show t.tables.ctx c = s.tables.ctx c; rw [e]
  raise s k x i d n a := ⟨by rw [State.raise_eq], by rw [State.raise_eq], fun _ => State.ctx_raise ..⟩
  takeRollback s d k := by
    have haside := s.takeRollback_aside d k
    refine ⟨State.claims_of_aside haside, State.job_of_aside haside, fun hc => ?_⟩
    rw [State.ctx_takeRollback]
    split
    · exact Context.rolled_of_not_open hc ..
    · rfl

/-! ### The marks of a restore -/

/-- What the mark of a restore's word does: the evaluation, when the word is watched (R103, R126). -/
def State.watchRestore (s : State) (a : Addr) (pre : Word) (c : CtxNum) (i : SrcNum) (watched : Bool) : State :=
  if watched then s.evaluateAll a pre (some c) i true else s

theorem State.watchRestore_eq {y : Grant} (hg : s.grant = some y) (a : Addr) (pre : Word) (c : CtxNum) (i : SrcNum)
    (watched : Bool) :
    ∃ hits late guards, s.watchRestore a pre c i watched =
        { s with guards := guards, grant := some { y with hits := y.hits ++ hits, late := y.late ++ late } } ∧
      (watched = false → guards = s.guards ∧ hits = []) := by
  cases watched with
  | false =>
    refine ⟨[], [], s.guards, ?_, fun _ => ⟨rfl, rfl⟩⟩
    rw [List.append_nil, List.append_nil, ← hg]; rfl
  | true =>
    obtain ⟨heq, -⟩ := State.foldl_evaluate_eq hg a pre (some c) i true eight eight_nodup
    exact ⟨_, _, _, heq, fun hf => nomatch hf⟩

theorem State.marks_restorePlan {t : State} {c : CtxNum} {p : Phase} {e : Epoch} (hc : s.ctx c = .active p e) (z : SlotPos)
    (a : Addr) (pre : Word) :
    t.marks (s.restorePlan c z (.restorable a pre)) =
      (t.watchRestore a pre c e.source (s.watches a)).creditRestore c a := by
  rw [State.restorePlan_eq, State.marks_append, State.marks_of_reads fun _ => State.restoreReads_reads]
  have hsource : (s.ctx c).epoch.elim 0 (·.source) = e.source := by rw [hc]; rfl
  show ((t.mark (if s.watches a then .watched a pre (some c) ((s.ctx c).epoch.elim 0 (·.source)) true else .quiet)).mark
    (.restored c a)) = _
  rw [hsource]
  unfold State.watchRestore
  cases s.watches a <;> rfl

/-- The chip and memory after a restore's accesses, but for the guards and the grant. -/
def State.restored (s : State) (c : CtxNum) (z : SlotPos) (p : Phase) (e : Epoch) (a : Addr) (pre : Word) : State :=
  { s with
    mem := s.restoredMem z a pre, claims := s.claims.filter (fun y => !(y.addr == a && y.owner == c)),
    contexts := s.contexts.set c (.active p { e with restored := e.restored + 1 }) }

/-- The reports of a grant leave replay's end as it was: not due, while the engine queue holds an entry. -/
theorem State.afterEngine_of_reports (hw : s.work = .idle ∨ (∃ v, s.work = .replay v) ∧ s.queue ≠ []) (l : List GuardHit)
    (r : Report) : ((s.reportHits l).deliver r).afterEngine = (s.reportHits l).deliver r := by
  have hwork : ((s.reportHits l).deliver r).work = s.work :=
    State.work_of_fixed ((State.deliver_fixed ..).trans (State.reportHits_fixed ..))
  refine State.afterEngine_of_queue (hw.imp (hwork.trans ·) fun ⟨⟨v, hv⟩, hq⟩ => ⟨⟨v, hwork.trans hv⟩, ?_⟩)
  exact QueueKept.keeps.deliver _ _ (QueueKept.keeps.reportHits _ _ hq)

theorem State.finishRestore_of_restorable {c : CtxNum} {p : Phase} {e : Epoch} (hc : s.ctx c = .active p e) (z : SlotPos)
    (a : Addr) (pre : Word) (o : Bool) (l : List GuardHit) :
    s.finishRestore c z (.restorable a pre) o l =
      ((s.freePort.setPhase c (phaseAfter e.chain z)).reportHits l).deliver ⟨none, if o then [a] else [], false⟩ := by
  unfold State.finishRestore
  rw [hc]
  rfl

section
variable {c : CtxNum} {z : SlotPos} {p : Phase} {e : Epoch} {a : Addr} {pre : Word} (hh : s.holder = some .be)
  (hg : s.grant = none) (hm : s.mode ≠ .frozen) (hw : s.work = .idle ∨ (∃ v, s.work = .replay v) ∧ s.queue ≠ [])
  (hj : s.headJob = some ⟨c, .restore z⟩) (hc : s.ctx c = .active p e) (hne : e.chain ≠ [])
include hh hg hm hj hc hne

/-- A restore step that writes nothing, carried to its end. -/
theorem exec_restoreStep_reading (hw : s.work = .idle ∨ ∃ v, s.work = .replay v) {found : Judged}
    (hf : s.judge c e z = found) (hread : ∀ a pre, found ≠ .restorable a pre) :
    exec (.restoreStep .toEnd) s =
      .next (((State.finishRestore { s with job := some ⟨c, .restore z⟩ } c z found false []).afterEngine).arbitrate) := by
  have hplan : s.restorePlan c z found = s.slotReads z.seg z.slot := by
    cases found with
    | restorable a pre => exact absurd rfl (hread a pre)
    | passedOver | fault k => exact List.append_nil _
  rw [exec_restoreStep_start hh hg hm hw hj hc hne hf, State.startGrant_toEnd, hplan, State.performAll_slotReads]
  cases found with
  | restorable a pre => exact absurd rfl (hread a pre)
  | passedOver | fault k => rfl

include hw

/-- A restore carried to its end: the word put back, its claim released and reported, the transitions reported. -/
theorem exec_restoreStep_restoring (hf : s.judge c e z = .restorable a pre) :
    ∃ hits guards, exec (.restoreStep .toEnd) s =
        .next ((((({ (s.restored c z p e a pre).freed .be with
          guards := guards, job := some ⟨c, phaseAfter e.chain z⟩ } : State)).reportHits hits).deliver
            ⟨none, if s.owner a = some c then [a] else [], false⟩).arbitrate) ∧
      (s.watches a = false → guards = s.guards ∧ hits = []) := by
  have hwork : s.work = .idle ∨ ∃ v, s.work = .replay v := hw.imp_right And.left
  let task : Task := .restore c z (.restorable a pre) (s.ownsWord c (.restorable a pre))
  let start : State := State.startGrant { s with job := some ⟨c, .restore z⟩ } task []
  obtain ⟨hits, late, guards, heq, hstill⟩ :=
    State.watchRestore_eq (s := start) rfl a pre c e.source (s.watches a)
  refine ⟨hits, guards, ?_, hstill⟩
  let carried : State := { s.restored c z p e a pre with
    job := some ⟨c, .restore z⟩, guards := guards, grant := some ⟨task, [], hits, late⟩ }
  have hcarried : start.performAll (s.restorePlan c z (.restorable a pre)) = carried := by
    have hcredit := State.mapEpoch_of_active (s := State.releaseClaim { start with
        guards := guards, grant := some ⟨task, [], [] ++ hits, [] ++ late⟩ } a c) hc
      fun e => { e with restored := e.restored + 1 }
    have hmem : planMemory start.mem (s.restorePlan c z (.restorable a pre)) = s.restoredMem z a pre :=
      State.planMemory_restorePlan ..
    rw [State.performAll_eq, State.marks_restorePlan hc, heq, hmem]
    exact congrArg (State.withMem · _) hcredit
  have hopen : carried.ctx c = .active p { e with restored := e.restored + 1 } := State.ctx_setCtx_self (s := s) c _
  have hfree : carried.freePort = carried.freed .be := State.freePort_eq_freed hh
  have howned : (if s.ownsWord c (.restorable a pre) then [a] else []) = if s.owner a = some c then [a] else [] := by
    simp only [State.ownsWord, beq_iff_eq]
  rw [exec_restoreStep_start hh hg hm hwork hj hc hne hf, State.startGrant_toEnd, hcarried,
    State.finishGrant_of_grant (y := ⟨task, [], hits, late⟩) rfl]
  show Host.Outcome.next (State.afterEngine (carried.finishRestore c z (.restorable a pre) _ hits)).arbitrate = _
  rw [State.finishRestore_of_restorable hopen, howned, hfree,
    State.afterEngine_of_reports (s := (carried.freed .be).setPhase c (phaseAfter e.chain z)) hw]
  rfl

end

/-! ### The statement -/

/-- A restore step that finds a fault sets the context FAULTED with the position and drops the job (R18, R106). -/
theorem State.faultJob_of_rollingBack {c : CtxNum} {k : Cause} {e : Epoch} (hc : s.ctx c = .active (.rollingBack k) e)
    (z : SlotPos) (f : FaultKind) :
    s.faultJob c z f = ((s.setCtx c (.active (.faulted k ⟨f, s.faultOrigin, some z⟩) e)).dropHead).raise .faulted (some c)
      (some e.source) (some k.code) (BitVec.ofNat 16 e.restored) (some (s.slotAddr z.seg z.slot 0)) := by
  rw [State.faultJob, hc]

/-- Settles O43: the cases of the judgement, the two ends after a fault, and the memory and the report of a restore. -/
theorem restoreStepOutcomes : Obligations.RestoreStepOutcomes := by
  intro s c z k e hh hg hm hw hj hc hne r mine a next
  have hwork : s.work = .idle ∨ ∃ v, s.work = .replay v := hw.imp_right fun ⟨v, hv, _⟩ => ⟨v, hv⟩
  have hwork' : s.work = .idle ∨ (∃ v, s.work = .replay v) ∧ s.queue ≠ [] := hw.imp_right fun ⟨v, hv, hq⟩ => ⟨⟨v, hv⟩, hq⟩
  have hfree : State.freePort { s with job := some ⟨c, .restore z⟩ } = { s.freed .be with job := some ⟨c, .restore z⟩ } :=
    State.freePort_eq_freed (s := { s with job := some ⟨c, .restore z⟩ }) hh
  refine ⟨fun hmine hk hp => ?passed, fun f hf => ?fault, fun hmine hk hp hwin hfits hn hslot => ?restored⟩
  case passed =>
    rw [exec_restoreStep_reading hh hg hm hj hc hne hwork (State.judge_passedOver hmine hk hp) nofun]
    have hfinish : State.finishRestore { s with job := some ⟨c, .restore z⟩ } c z .passedOver false [] =
        { s.freed .be with job := some next } := by
      have hchain : (State.ctx { s with job := some ⟨c, .restore z⟩ } c).epoch.elim [] (·.chain) = e.chain := by
        show (s.ctx c).epoch.elim [] (·.chain) = _
        rw [hc]; rfl
      unfold State.finishRestore
      dsimp only
      rw [hchain, hfree]
      rfl
    rw [hfinish, State.afterEngine_of_queue (s := { s.freed .be with job := some next }) hwork']
  case fault =>
    intro origin faulted raised
    have horigin : s.faultOrigin = origin := by
      unfold State.faultOrigin
      show _ = (match s.work with | .replay _ => _ | _ => _)
      cases s.work <;> rfl
    have hraised : State.finishRestore { s with job := some ⟨c, .restore z⟩ } c z (.fault f) false [] = raised := by
      show State.faultJob (State.freePort { s with job := some ⟨c, .restore z⟩ }) c z f = _
      rw [hfree, State.faultJob_of_rollingBack (s := { s.freed .be with job := some ⟨c, .restore z⟩ }) hc]
      show State.raise (State.dropHead (State.setCtx _ c (.active (.faulted k ⟨f, s.faultOrigin, some z⟩) e))) _ _ _ _ _ _ = _
      rw [horigin]
      rfl
    have hexec : exec (.restoreStep .toEnd) s = .next (raised.afterEngine.arbitrate) := by
      rw [exec_restoreStep_reading hh hg hm hj hc hne hwork (State.judge_fault hf) nofun, hraised]
    have hfixed : raised.fixed = s.fixed := (State.raise_fixed ..).trans
      (State.setCtx_fixed (s.freed .be) c (.active (.faulted k ⟨f, origin, some z⟩) e))
    have hwr := State.work_of_fixed hfixed
    have hmr := State.mode_of_fixed hfixed
    have hqr : raised.queue = s.queue.tail := State.raise_queue ..
    refine ⟨fun v hv hmode hq => ?_, fun hstay => ?_⟩
    · rw [hexec, State.afterEngine_of_replay (hwr.trans hv), if_pos ⟨hmr.trans hmode, hqr.trans hq⟩]
    · have hstays : raised.afterEngine = raised := by
        obtain hidle | ⟨v, hv⟩ := hwork
        · exact State.afterEngine_of_idle (hwr.trans hidle)
        · rw [State.afterEngine_of_replay (hwr.trans hv), if_neg]
          rintro ⟨hmode, hq⟩
          rw [hmr] at hmode
          rw [hqr] at hq
          obtain h | h | h := hstay
          · exact nomatch h.symm.trans hv
          · exact h hmode
          · exact h hq
      rw [hexec, hstays]
  case restored =>
    have hjudge : s.judge c e z = .restorable a r.w2 := State.judge_restorable hmine hk hp hwin
    obtain ⟨hits, guards, hexec, hstill⟩ := exec_restoreStep_restoring hh hg hm hwork' hj hc hne hjudge
    refine ⟨s.restoredMem z a r.w2, _, hexec, ?_⟩
    generalize hended : ({ (s.restored c z (.rollingBack k) e a r.w2).freed .be with
      guards := guards, job := some ⟨c, phaseAfter e.chain z⟩ } : State) = ended
    have hfixed : ((ended.reportHits hits).deliver ⟨none, if s.owner a = some c then [a] else [], false⟩).fixed = ended.fixed :=
      (State.deliver_fixed ..).trans (State.reportHits_fixed ..)
    have hkept : ClosedKept c ended
        ((ended.reportHits hits).deliver ⟨none, if s.owner a = some c then [a] else [], false⟩) :=
      (ClosedKept.keeps c).trans ((ClosedKept.keeps c).reportHits ..) ((ClosedKept.keeps c).deliver ..)
    have hctx : ended.ctx c = .active (.rollingBack k) { e with restored := e.restored + 1 } := by
      rw [← hended]
      exact State.ctx_setCtx_self (s := s) c _
    refine ⟨?_, State.word_restoredMem hfits hn hslot hwin, State.slotIn_restoredMem hfits hn hslot hwin,
      State.sameOutside_restoredMem, ?_, ?_, ?_, fun hquiet => ?_⟩
    · rw [State.arbitrate_mem, State.mem_of_fixed hfixed, ← hended]; rfl
    · rw [State.arbitrate_claims, hkept.claims, ← hended]; rfl
    · rw [State.ctx, State.arbitrate_contexts]
      exact (hkept.closed (by rw [hctx]; nofun)).trans hctx
    · rw [State.arbitrate_job, hkept.job, ← hended]
    · obtain ⟨rfl, rfl⟩ := hstill (State.watches_false hquiet)
      rw [← hended]
      rfl

end Sys2Proof.Machine
end

section
/-! SUPPORT. Guard transitions in a grant: the evaluation at its last access, and the events and requests at its end. -/

namespace Sys2Proof.Machine

variable {s : State}

/-! ### The evaluation within a grant (R120) -/

/-- A watched forwarded write carried to its last access. -/
theorem exec_forwardedWrite_watched {a : Access} {l : Option Nat} {n : Nat} (hn : 2 ≤ n) (hh : s.holder = some .hp)
    (hg : s.grant = none) (ha : s.access = some ⟨a, .toMemory .forwarded, l⟩) (hw : a.write = true)
    (hv : s.classify a = .send .forwarded) (hwatch : s.watches a.addr = true) :
    exec (.forwardedWrite (.accesses n)) s =
      .next (State.evaluateAll { s with
        mem := Memory.putWord s.mem a.addr a.be a.data,
        grant := some ⟨.forwardedWrite a (s.ownContext a), [], [], []⟩ }
        a.addr (Memory.word (Memory.putWord s.mem a.addr a.be a.data) a.addr) (s.ownContext a) a.src false) := by
  rw [exec_forwardedWrite_start hh hg ha hv hw, State.startGrant_accesses, List.drop_of_length_le (by rw [hwatch]; exact hn),
    List.take_of_length_le (by rw [hwatch]; exact hn),
    State.performAll_forwardedPlan (s := s) (s.startGrant (.forwardedWrite a (s.ownContext a)) []) rfl a (s.ownContext a),
    State.watchHost, if_pos hwatch, ← State.evaluateAll_withMem]
  rfl

theorem State.journalPlan_length (w : Working) (a : Access) : (s.journalPlan w a).length ≤ 10 := by
  have hrecords := State.journalRecords_length (s := s) w
  rw [State.journalPlan_eq, List.length_cons, List.length_append, List.length_singleton]
  omega

theorem State.withMem_guards (m : List Host.Cell) : (s.withMem m).guards = s.guards := rfl

theorem State.withMem_grant (m : List Host.Cell) : (s.withMem m).grant = s.grant := rfl

/-- A watched restore carried to its last access: the guards and the grant are as the evaluation leaves them. -/
theorem State.performAll_restorePlan_watched {t : State} {c : CtxNum} {p : Phase} {e : Epoch}
    (hc : s.ctx c = .active p e) (z : SlotPos) {a : Addr} (hw : s.watches a = true) (pre : Word) :
    (t.performAll (s.restorePlan c z (.restorable a pre))).guards = (t.evaluateAll a pre (some c) e.source true).guards ∧
      (t.performAll (s.restorePlan c z (.restorable a pre))).grant = (t.evaluateAll a pre (some c) e.source true).grant := by
  have hcredit (u : State) : (u.creditRestore c a).guards = u.guards ∧ (u.creditRestore c a).grant = u.grant := by
    have haside := State.mapEpoch_aside (u.releaseClaim a c) c fun e => { e with restored := e.restored + 1 }
    exact ⟨(State.guards_of_aside haside).trans rfl, (State.grant_of_aside haside).trans rfl⟩
  rw [State.performAll_eq, State.marks_restorePlan hc, State.watchRestore, if_pos hw]
  rw [State.withMem_guards, State.withMem_grant]
  exact hcredit _

/-! ### The end of a grant (R122 to R124) -/

theorem GuardHit.code_eq (h : GuardHit) :
    h.code = BitVec.ofNat 8 ((if h.make then 2 else 1) + (if h.restore then 4 else 0) + (if h.request then 8 else 0)) := by
  unfold GuardHit.code
  cases h.make <;> cases h.restore <;> cases h.request <;> rfl

/-- A report of nothing ends no hold (R69). -/
theorem State.deliver_of_nothing : s.deliver ⟨none, [], false⟩ = s := by
  cases ha : s.access with
  | none => exact State.deliver_none _ _ ha
  | some h =>
    obtain ⟨a, place, l⟩ := h
    cases place with
    | toMemory r => rw [State.deliver, ha]
    | held r =>
      refine State.deliver_of_not_clears ha ?_
      cases r <;> cases hw : a.write <;> simp [Report.clears, hw]

theorem State.requestRollback_of_not_open {c : CtxNum} (hc : ∀ i e, s.ctx c ≠ .active (.opened i) e) (k : Cause) :
    s.requestRollback c k = s := by
  have hreport : s.leaveReport c = ⟨none, [], false⟩ := by
    unfold State.leaveReport
    split
    · next i e hopen => exact absurd hopen (hc i e)
    · rfl
  rw [State.requestRollback, hreport, State.takeRollback_of_not_open hc, State.deliver_of_nothing]

theorem State.requestHit_of_request {h : GuardHit} {c : CtxNum} (hr : h.request = true) (hc : h.ctx = some c) :
    s.requestHit h = s.requestRollback c .guard := by
  rw [State.requestHit, hr, hc]

theorem State.requestHit_of_none {h : GuardHit} (hr : h.request = false ∨ h.ctx = none) : s.requestHit h = s := by
  unfold State.requestHit
  split
  · next hreq hctx =>
    obtain hr | hr := hr
    · exact nomatch hr.symm.trans hreq
    · exact nomatch hr.symm.trans hctx
  · rfl

theorem State.reloadIdle_of_not_open {c : CtxNum} (hc : ∀ i e, s.ctx c ≠ .active (.opened i) e) : s.reloadIdle c = s := by
  unfold State.reloadIdle
  split
  · next i e hopen => exact absurd hopen (hc i e)
  · rfl

/-- A host-path grant with no access left ends by its task. -/
theorem State.hostRow_done {y : Grant} (hh : s.holder = some .hp) (hg : s.grant = some y) (ht : y.todo = [])
    {mine : Task → Bool} (hy : mine y.task = true) (fits : Route → Bool → Bool) :
    s.hostRow mine fits .toEnd = (s.finish y).arbitrate := by
  rw [State.hostRow, State.grantRow_mine hh hg hy, State.advance_of_done hg ht]

theorem State.engineRow_done {y : Grant} (hh : s.holder = some .be) (hg : s.grant = some y) (ht : y.todo = [])
    {mine : Task → Bool} (hy : mine y.task = true) : s.engineRow mine .toEnd = (s.finish y).arbitrate := by
  rw [State.engineRow, State.grantRow_mine hh hg hy, State.advance_of_done hg ht]

/-- Settles O35: the last access of each of the three grants that write a watched word, and the end of a grant by its task. -/
theorem guardEventsAreReported : Obligations.GuardEventsAreReported := by
  refine ⟨fun s a l own n hn hh hg ha hw hv hwatch hown => ?forwarded,
    fun s a l c q i e n hn hh hg ha hv hc ho hroom hmay hf hseg hfill hgrow hwatch => ?journalled,
    fun s c z k e n hn hh hg hm hw hj hc hne => ?restore, fun s y hg hy => ?ends⟩
  case forwarded =>
    have hctx : s.ownContext a = own := by
      obtain ⟨ho, rfl⟩ | ⟨c, ho, hb, rfl⟩ := hown
      · exact State.ownContext_of_unclaimed ho
      · exact State.ownContext_of_bound hw ho hb
    rw [exec_forwardedWrite_watched hn hh hg ha hw hv ((State.watches_iff _).2 hwatch), hctx]
    exact ⟨_, Memory.sameOutside_putWord _ _ _ _ List.mem_cons_self,
      fun j hj => Memory.byte_putWord_self _ _ _ _ hj, rfl⟩
  case journalled =>
    obtain ⟨-, hslot⟩ := State.target_slot (s := s) hfill
    have hlen := State.journalPlan_length (s := s) (s.working a c e) a
    refine ⟨s.journalled a c (.opened i) e, { s.working a c e with preimage := some (s.word a.addr) }, ?_, rfl, rfl, rfl, rfl⟩
    have hword : (s.journalled a c (.opened i) e).word a.addr =
        Memory.word (Memory.putWord s.mem a.addr a.be a.data) a.addr := by
      show Memory.word (planMemory s.mem (s.journalPlan (s.working a c e) a)) a.addr = _
      rw [State.planMemory_journalPlan, Memory.word_putWord_self, Memory.word_putWord_self,
        State.word_journalRecords (s.working a c e) a hf hseg hslot (State.inWindow_of_send_journalled hv)]
      rfl
    rw [exec_journalledWrite_begun hh hg ha hv hc ho hroom hmay hgrow, State.startGrant_accesses,
      List.drop_of_length_le (hlen.trans hn), List.take_of_length_le (hlen.trans hn), State.performAll_journalPlan,
      State.watchHost, if_pos ((State.watches_iff _).2 hwatch), hword]
  case restore =>
    intro r a hmine hpre hpasses hwin hwatch
    have hwatches : s.watches a = true := (State.watches_iff a).2 hwatch
    have hjudge : s.judge c e z = .restorable a r.w2 := State.judge_restorable hmine hpre hpasses hwin
    have hlen : (s.restorePlan c z (.restorable a r.w2)).length ≤ n := by
      have hreads := State.restoreReads_length (s := s) z a
      rw [State.restorePlan_eq, List.length_append]
      exact (Nat.add_le_add_right hreads 2).trans hn
    have howned : s.ownsWord c (.restorable a r.w2) = decide (s.owner a = some c) := by
      rw [State.ownsWord, Bool.eq_iff_iff, beq_iff_eq, decide_eq_true_iff]
    obtain ⟨hguards, hgrant⟩ := State.performAll_restorePlan_watched
      (t := State.startGrant { s with job := some ⟨c, .restore z⟩ }
        (.restore c z (.restorable a r.w2) (s.ownsWord c (.restorable a r.w2))) []) hc z hwatches r.w2
    refine ⟨_, _, ?_, ?_, ?_, hguards, hgrant⟩
    · rw [exec_restoreStep_start hh hg hm hw hj hc hne hjudge, State.startGrant_accesses, List.drop_of_length_le hlen,
        List.take_of_length_le hlen]
    · rfl
    · rw [howned]; rfl
  case ends =>
    intro code request told done reloaded
    have hrequest : request = State.requestHit := by
      funext t h
      by_cases hnone : h.request = false ∨ h.ctx = none
      · rw [State.requestHit_of_none hnone]
        obtain hr | hx := hnone
        · simp only [request, hr]
        · simp only [request, hx]
          cases h.request <;> rfl
      · obtain ⟨hr, hx⟩ := not_or.1 hnone
        obtain ⟨c, hx⟩ := Option.ne_none_iff_exists'.1 hx
        rw [State.requestHit_of_request (Bool.eq_true_of_not_eq_false hr) hx]
        simp only [request, Bool.eq_true_of_not_eq_false hr, hx]
        cases hc : t.ctx c with
        | free => exact (State.requestRollback_of_not_open (by rw [hc]; nofun) .guard).symm
        | active p e =>
          cases p with
          | opened i => exact (State.requestRollback_of_open hc .guard).symm
          | committing | rollingBack | discarding | faulted =>
            exact (State.requestRollback_of_not_open (by rw [hc]; nofun) .guard).symm
    have hraise : (fun (t : State) (h : GuardHit) =>
        t.raise .guard h.ctx (some h.src) (some (code h)) (BitVec.ofNat 16 h.entry.val) (some h.addr)) =
        State.raiseHit := by
      funext t h
      rw [State.raiseHit, GuardHit.code_eq]
    have htold (t : State) : told t = t.reportHits y.hits := by
      show y.hits.foldl request (y.hits.foldl _ t) = _
      rw [hrequest, hraise]
      rfl
    have hreloaded (c : CtxNum) : reloaded c = done.reloadIdle c := by
      simp only [reloaded]
      cases hc : s.ctx c with
      | free => exact (State.reloadIdle_of_not_open (s := done) fun i e h => nomatch hc.symm.trans h).symm
      | active p e =>
        cases p with
        | opened i =>
          by_cases h0 : s.limits.idlelim = 0
          · exact (if_pos h0).trans (State.reloadIdle_of_zero (s := done) hc h0).symm
          · exact (if_neg h0).trans (State.reloadIdle_of_ne_zero (s := done) hc h0).symm
        | committing | rollingBack | discarding | faulted =>
          exact (State.reloadIdle_of_not_open (s := done) fun i e h => nomatch hc.symm.trans h).symm
    refine ⟨fun a reload hh htask => ?_, fun w hh htask => ?_, fun c z a pre owned p e hh hw htask hc => ?_⟩
    · refine congrArg Host.Outcome.next ((State.hostRow_done hh hg hy (by rw [htask]) _).trans ?_)
      have hend : s.finish y = s.finishWrite reload y.hits := by rw [State.finish, htask]
      rw [hend, State.finishWrite_eq hh]
      cases reload with
      | none => exact congrArg State.arbitrate (htold done).symm
      | some c => exact congrArg State.arbitrate ((htold (reloaded c)).trans (by rw [hreloaded]; rfl)).symm
    · refine congrArg Host.Outcome.next ((State.hostRow_done hh hg hy (by rw [htask]) _).trans ?_)
      have hend : s.finish y = s.finishJournalled w y.hits := by rw [State.finish, htask]
      rw [hend, State.finishJournalled, State.freePort_eq_freed hh, htold, hreloaded]
      rfl
    · refine congrArg Host.Outcome.next ((State.engineRow_done hh hg hy (by rw [htask])).trans ?_)
      have hend : s.finish y = (s.finishRestore c z (.restorable a pre) owned y.hits).afterEngine := by
        rw [State.finish, htask]
      rw [hend, State.finishRestore_of_restorable hc, State.freePort_eq_freed hh, htold,
        State.afterEngine_of_reports (s := (s.freed .be).setPhase c (phaseAfter e.chain z))
          (hw.imp_right fun ⟨v, hv, hq⟩ => ⟨⟨v, hv⟩, hq⟩)]
      rfl

end Sys2Proof.Machine
end

section
/-! SUPPORT. Recovery's reading grants: the survey of the headers and the judgement of the chains. -/

namespace Sys2Proof.Machine

variable {s : State}

/-! ### A reading grant -/

theorem State.performAll_of_reads {ps : List PlannedOp} (h : ∀ p ∈ ps, ∃ b, p = (PortOp.read b).plain) (t : State) :
    t.performAll ps = t := by
  rw [State.performAll_eq, State.marks_of_reads h, planMemory_of_reads h]; rfl

theorem State.slotReads_reads {n k : Nat} {p : PlannedOp} (hp : p ∈ s.slotReads n k) : ∃ b, p = (PortOp.read b).plain := by
  simp only [State.slotReads, List.mem_cons, List.not_mem_nil, or_false] at hp
  obtain rfl | rfl | rfl | rfl := hp <;> exact ⟨_, rfl⟩

theorem State.slotsReads_reads {seg : Nat} {p : PlannedOp} :
    ∀ {n k : Nat}, p ∈ s.slotsReads seg k n → ∃ b, p = (PortOp.read b).plain
  | 0, _, hp => absurd hp List.not_mem_nil
  | n + 1, k, hp => by
    obtain hp | hp := List.mem_append.1 hp
    · exact State.slotReads_reads hp
    · exact State.slotsReads_reads hp

/-- A step of the recovery work that reads alone, carried to its end: nothing happens before the end of the grant. -/
theorem State.engineRow_reading {t : Task} (hh : s.holder = some .be) (hg : s.grant = none) (hm : s.mode ≠ .frozen)
    (hd : s.dueTask = some t) (hs : s.startTask t = s.startGrant t (s.taskPlan t))
    (hread : ∀ p ∈ s.taskPlan t, ∃ b, p = (PortOp.read b).plain) {mine : Task → Bool} (hy : mine t = true) :
    s.engineRow mine .toEnd = ((s.startGrant t []).finish ⟨t, [], [], []⟩).arbitrate := by
  rw [State.engineRow_start hh hg hm hd hy, hs, State.startGrant_toEnd, State.performAll_of_reads hread,
    State.finishGrant_of_grant (y := ⟨t, [], [], []⟩) rfl]

/-! ### What the ends of recovery's grants leave -/

/-- The contexts, the pool, the bus, the port and the claims. -/
structure TablesStand (s t : State) : Prop where
  contexts : t.contexts = s.contexts
  pool : t.pool = s.pool
  aside : t.aside = s.aside

namespace TablesStand

theorem trans {t u : State} (h : TablesStand s t) (h' : TablesStand t u) : TablesStand s u :=
  ⟨h'.contexts.trans h.contexts, h'.pool.trans h.pool, h'.aside.trans h.aside⟩

theorem raise (k c i d n a) : TablesStand s (s.raise k c i d n a) :=
  ⟨State.raise_contexts .., by rw [State.raise_eq], State.raise_aside ..⟩

theorem recoveryDone (r : Recovery) : TablesStand s (s.recoveryDone r) :=
  .trans (t := { s with mode := .run, work := .idle }) ⟨rfl, rfl, rfl⟩ (raise ..)

theorem finishReplay (r : Recovery) : TablesStand s (s.finishReplay r) := by
  unfold State.finishReplay
  dsimp only
  split
  · exact .trans (t := { s with epochSeq := nextSeq r.found }) ⟨rfl, rfl, rfl⟩ (recoveryDone r)
  · exact ⟨rfl, rfl, rfl⟩

theorem afterEngine : TablesStand s s.afterEngine := by
  unfold State.afterEngine
  split
  · split
    · exact finishReplay _
    · exact ⟨rfl, rfl, rfl⟩
  · exact ⟨rfl, rfl, rfl⟩

theorem queueJobs (r : Recovery) : TablesStand s (s.queueJobs r) :=
  .trans (t := { s with queue := s.queue ++ eight.filterMap s.jobEntry, work := .replay r }) ⟨rfl, rfl, rfl⟩ afterEngine

theorem nextChain (r : Recovery) : TablesStand s (s.nextChain r) := by
  unfold State.nextChain
  dsimp only
  split
  · exact queueJobs _
  · exact ⟨rfl, rfl, rfl⟩

end TablesStand

/-! ### The survey (R146, R147) -/

theorem Record.liveHeader_iff (r : Record) (g : Byte) (n : Nat) :
    r.liveHeader g n = true ↔
      r.passes = true ∧ r.isKind .header = true ∧ genField r.w0 = g ∧ slotField r.w0 = 0 ∧ r.w1 = BitVec.ofNat 32 n := by
  simp only [Record.liveHeader, Bool.and_eq_true, beq_iff_eq, and_assoc]

/-- The live headers that the survey keeps after segment `n`. -/
def State.kept (s : State) (n : Nat) (found : List LiveSeg) : List LiveSeg :=
  if (s.slot n 0).liveHeader s.gen n then found ++ [liveSeg (s.slot n 0) n] else found

section
variable {n : Nat} {found : List LiveSeg} (hw : s.work = .survey n found)
include hw

theorem State.finishSurvey_of_more (hn : n + 1 < s.nseg) :
    s.finishSurvey = { s.freePort with work := .survey (n + 1) (s.kept n found) } := by
  simp only [State.finishSurvey, hw, hn, if_true, State.kept]

theorem State.finishSurvey_of_last (hn : ¬ n + 1 < s.nseg) : s.finishSurvey = s.freePort.surveyEnd (s.kept n found) := by
  simp only [State.finishSurvey, hw, hn, if_false, State.kept]

theorem exec_surveyStep (hh : s.holder = some .be) (hg : s.grant = none) (hm : s.mode ≠ .frozen) :
    exec (.surveyStep .toEnd) s = .next ((s.startGrant .survey []).finishSurvey.arbitrate) := by
  have hdue : s.dueTask = some .survey := by rw [State.dueTask, hw]
  have hstart : s.startTask .survey = s.startGrant .survey (s.taskPlan .survey) := by rw [State.startTask, hw]
  have hread : ∀ p ∈ s.taskPlan .survey, ∃ b, p = (PortOp.read b).plain := by
    intro p hp
    rw [State.taskPlan, hw] at hp
    exact State.slotReads_reads hp
  exact congrArg Host.Outcome.next (State.engineRow_reading hh hg hm hdue hstart hread rfl)

end

/-- The context of a broken chain (R147). -/
def brokenContext (g : List LiveSeg) (x : LiveSeg) : Context :=
  .active (.faulted .recovery ⟨.chain, .recovery, none⟩) ⟨x.src, x.seq, asChain g, 15, true, 0, 0, false⟩

theorem State.faultChain_of_head {g : List LiveSeg} {x : LiveSeg} (hx : g.head? = some x) (c : CtxNum) :
    s.faultChain c g =
      (s.setCtx c (brokenContext g x)).raise .faulted (some c) (some x.src) (some Cause.recovery.code) 0#16 none := by
  cases g with
  | nil => exact nomatch hx
  | cons y g => cases hx; rfl

theorem State.faultChain_of_none {g : List LiveSeg} (hx : g.head? = none) (c : CtxNum) : s.faultChain c g = s := by
  cases g with
  | nil => rfl
  | cons y g => exact nomatch hx

theorem State.faultChain_aside (c : CtxNum) (g : List LiveSeg) : (s.faultChain c g).aside = s.aside := by
  cases hx : g.head? with
  | none => rw [State.faultChain_of_none hx]
  | some x => rw [State.faultChain_of_head hx, State.raise_aside]; rfl

theorem State.faultChain_pool (c : CtxNum) (g : List LiveSeg) : (s.faultChain c g).pool = s.pool := by
  cases hx : g.head? with
  | none => rw [State.faultChain_of_none hx]
  | some x => rw [State.faultChain_of_head hx, State.raise_eq]; rfl

theorem State.ctx_faultChain_ne {c d : CtxNum} (hd : d ≠ c) (g : List LiveSeg) : (s.faultChain c g).ctx d = s.ctx d := by
  cases hx : g.head? with
  | none => rw [State.faultChain_of_none hx]
  | some x =>
    rw [State.faultChain_of_head hx, State.ctx_raise]
    exact (s.setCtx_ctx c d _).trans (if_neg hd)

theorem State.ctx_faultChain_self {c : CtxNum} {g : List LiveSeg} {x : LiveSeg} (hx : g.head? = some x) :
    (s.faultChain c g).ctx c = brokenContext g x := by
  rw [State.faultChain_of_head hx, State.ctx_raise]
  exact State.ctx_setCtx_self ..

/-- Faulting broken chains touches their contexts alone. -/
theorem State.foldl_faultChain (group : CtxNum → List LiveSeg) (l : List CtxNum) (t : State) :
    let u := l.foldl (fun t c => t.faultChain c (group c)) t
    u.pool = t.pool ∧ u.aside = t.aside ∧ (∀ d, d ∉ l → u.ctx d = t.ctx d) ∧
      (∀ d x, d ∈ l → (group d).head? = some x → u.ctx d = brokenContext (group d) x) := by
  induction l generalizing t with
  | nil => exact ⟨rfl, rfl, fun d _ => rfl, fun d x hd => absurd hd List.not_mem_nil⟩
  | cons c l ih =>
    obtain ⟨hpool, haside, hother, hbroken⟩ := ih (t.faultChain c (group c))
    refine ⟨hpool.trans (State.faultChain_pool ..), haside.trans (State.faultChain_aside ..), fun d hd => ?_,
      fun d x hd hx => ?_⟩
    · obtain ⟨hdc, hdl⟩ := not_or.1 fun h => hd (List.mem_cons.2 h)
      exact (hother d hdl).trans (State.ctx_faultChain_ne hdc _)
    · by_cases hdl : d ∈ l
      · exact hbroken d x hdl hx
      · obtain rfl := (List.mem_cons.1 hd).resolve_right hdl
        exact (hother d hdl).trans (State.ctx_faultChain_self hx)

/-- The state at the survey's end, with the pool set and the broken chains faulted (R147). -/
def State.surveyed (s : State) (found : List LiveSeg) : State :=
  (eight.filter fun c => !(groupOf found c).isEmpty && !isConsistent (groupOf found c)).foldl
    (fun t c => t.faultChain c (groupOf found c))
    { s with pool := (List.range s.nseg).filter fun n => !found.any (fun x => x.seg == n) }

theorem State.surveyEnd_eq (found : List LiveSeg) :
    s.surveyEnd found =
      if (eight.filter fun c => isConsistent (groupOf found c)).isEmpty then
        (s.surveyed found).queueJobs ⟨found, eight.filter fun c => isConsistent (groupOf found c), [], 0, 0⟩
      else
        { s.surveyed found with
          work := .judge ⟨found, eight.filter fun c => isConsistent (groupOf found c), [], 0, 0⟩ none } := rfl

theorem State.surveyEnd_stands (found : List LiveSeg) : TablesStand (s.surveyed found) (s.surveyEnd found) := by
  rw [State.surveyEnd_eq]
  split
  · exact TablesStand.queueJobs _
  · exact ⟨rfl, rfl, rfl⟩

/-- Settles O47: the header test at each segment, and at the last the pool, the broken chains and what follows. -/
theorem surveyReadsHeaders : Obligations.SurveyReadsHeaders := by
  intro s n found hh hg hw hmode hn r live kept hkept hskip
  have hkept' : s.kept n found = kept := by
    unfold State.kept
    by_cases hlive : live
    · rw [if_pos ((Record.liveHeader_iff ..).2 hlive), hkept hlive]; rfl
    · rw [if_neg fun h => hlive ((Record.liveHeader_iff ..).1 h), hskip hlive]
  have hexec := exec_surveyStep hw hh hg (by rw [hmode]; nofun)
  have hfree : (s.startGrant .survey []).freePort = s.freed .be := State.freePort_eq_freed (s := s.startGrant .survey []) hh
  refine ⟨fun hmore => ?more, fun hlast => ?last⟩
  case more =>
    rw [hexec, State.finishSurvey_of_more (s := s.startGrant .survey []) hw hmore, hfree]
    exact congrArg (fun k => Host.Outcome.next ({ s.freed .be with work := .survey (n + 1) k } : State).arbitrate) hkept'
  case last =>
    have hend : exec (.surveyStep .toEnd) s = .next (((s.freed .be).surveyEnd kept).arbitrate) := by
      rw [hexec, State.finishSurvey_of_last (s := s.startGrant .survey []) hw (Nat.not_lt_of_le (Nat.le_of_eq hlast.symm)),
        hfree]
      exact congrArg (fun k => Host.Outcome.next (((s.freed .be).surveyEnd k).arbitrate)) hkept'
    have hstands := (s.freed .be).surveyEnd_stands kept
    obtain ⟨hpool, haside, hother, hbroken⟩ := State.foldl_faultChain (groupOf kept)
      (eight.filter fun c => !(groupOf kept c).isEmpty && !isConsistent (groupOf kept c))
      { s.freed .be with pool := (List.range s.nseg).filter fun n => !kept.any (fun x => x.seg == n) }
    have hpools : ((List.range s.nseg).filter fun k => !kept.any (fun x => x.seg == k)) =
        (List.range s.nseg).filter fun k => decide (∀ x ∈ kept, x.seg ≠ k) := by
      refine List.filter_congr fun k _ => ?_
      rw [Bool.eq_iff_iff, Bool.not_eq_true', List.any_eq_false, decide_eq_true_iff]
      simp only [beq_iff_eq, ne_eq]
    have hlisted (c : CtxNum) :
        c ∈ eight.filter (fun c => !(groupOf kept c).isEmpty && !isConsistent (groupOf kept c)) ↔
          groupOf kept c ≠ [] ∧ ¬ isConsistent (groupOf kept c) = true := by
      rw [List.mem_filter, Bool.and_eq_true, Bool.not_eq_true', Bool.not_eq_true', List.isEmpty_eq_false_iff,
        Bool.not_eq_true]
      exact and_iff_right (eight_mem c)
    have hctx (d : CtxNum) : (((s.freed .be).surveyEnd kept).arbitrate).ctx d = ((s.freed .be).surveyed kept).ctx d := by
      rw [State.ctx, State.arbitrate_contexts, hstands.contexts]; rfl
    have hkeep := hstands.aside.trans haside
    refine ⟨_, hend, ?mem, ?claims, ?lastHolder, ?pool, fun c hc => ?absent, fun c x hx => ?group, fun whole hwhole => ?whole⟩
    case mem =>
      rw [State.arbitrate_mem]
      exact (EndKept.surveyEnd (s := s.freed .be) (by show s.work ≠ _; rw [hw]; nofun) kept).mem
    case claims => rw [State.arbitrate_claims, State.claims_of_aside hkeep]; rfl
    case lastHolder => rw [State.arbitrate_lastHolder, State.lastHolder_of_aside hkeep]; rfl
    case pool => rw [State.arbitrate_pool, hstands.pool]; exact hpool.trans hpools
    case absent =>
      have hempty : groupOf kept c = [] := by
        rw [groupOf, List.filter_eq_nil_iff.2 fun x hx => by rw [beq_iff_eq]; exact hc x hx]; rfl
      exact (hctx c).trans (hother c fun h => ((hlisted c).1 h).1 hempty)
    case group =>
      intro g
      have hwhole : isConsistent g = true ↔
          (∀ y ∈ g, y.src = x.src ∧ y.seq = x.seq) ∧ (∀ k y, g[k]? = some y → y.idx = x.idx + k) := by
        rw [isConsistent_iff]
        exact ⟨fun ⟨z, hz, h⟩ => Option.some.inj (hz.symm.trans hx) ▸ h, fun h => ⟨x, hx, h⟩⟩
      refine ⟨fun h => ?_, fun h => ?_⟩
      · exact (hctx c).trans (hother c fun hbad => ((hlisted c).1 hbad).2 (hwhole.2 h))
      · refine (hctx c).trans (hbroken c x ((hlisted c).2 ⟨fun hnil => ?_, fun hc => h (hwhole.1 hc)⟩) hx)
        rw [hnil] at hx
        exact nomatch hx
    case whole =>
      obtain rfl : whole = fun c => isConsistent (groupOf kept c) :=
        funext fun c => Bool.eq_iff_iff.2 ((hwhole c).trans (isConsistent_iff _).symm)
      intro all fault faulted v
      have hfault : fault = fun u c => u.faultChain c (groupOf kept c) := by
        funext u c
        simp only [fault]
        cases groupOf kept c <;> rfl
      have hfaulted : (s.freed .be).surveyed kept = faulted := by
        simp only [faulted, hfault, ← hpools]
        rfl
      refine ⟨fun hgood => ?_, fun hnone => ?_⟩
      · refine congrArg State.arbitrate ((State.surveyEnd_eq kept).trans
          ((if_neg fun h => hgood (List.isEmpty_iff.1 h)).trans ?_))
        rw [hfaulted]
        rfl
      · refine congrArg State.arbitrate ((State.surveyEnd_eq kept).trans ((if_pos (List.isEmpty_iff.2 hnone)).trans ?_))
        rw [hfaulted]
        rfl

end Sys2Proof.Machine
end

section
/-! SUPPORT. The judgement of a chain: the scans of its segments, what each finding makes of the context, and the queueing of the jobs. -/

namespace Sys2Proof.Machine

variable {s : State}

/-! ### The scan of a final segment (R148) -/

/-- A valid marker of the epoch in slot `j`. -/
def State.markerAt (s : State) (seg : Nat) (e : Identity) (j : Nat) : Prop :=
  (s.slot seg j).belongs e j = true ∧ ((s.slot seg j).isKind .commit = true ∨ (s.slot seg j).isKind .abort = true) ∧
    (s.slot seg j).passes = true

/-- A torn tail in slot `j`: a slot of the epoch that fails its check, with none of the epoch after it. -/
def State.tornAt (s : State) (seg : Nat) (e : Identity) (j : Nat) : Prop :=
  (s.slot seg j).belongs e j = true ∧ (s.slot seg j).passes = false ∧
    (j = 15 ∨ (s.slot seg (j + 1)).belongs e (j + 1) = false)

section
variable {seg : Nat} {e : Identity} {k : Nat} (n : Nat)

theorem State.scanFinal_of_foreign (h : (s.slot seg k).belongs e k = false) : s.scanFinal seg e (n + 1) k = .ends k := by
  rw [State.scanFinal, h]; rfl

theorem State.scanFinal_of_marker (h : s.markerAt seg e k) : s.scanFinal seg e (n + 1) k = .marker k := by
  obtain ⟨hm, hk, hp⟩ := h
  have hkind : ((s.slot seg k).isKind .commit || (s.slot seg k).isKind .abort) = true := by
    rw [Bool.or_eq_true]; exact hk
  rw [State.scanFinal, hm, hp, hkind]; rfl

theorem State.scanFinal_of_torn (h : s.tornAt seg e k) : s.scanFinal seg e (n + 1) k = .ends k := by
  obtain ⟨hm, hp, hlast⟩ := h
  have hend : (k == Config.lastSlot || !(s.slot seg (k + 1)).belongs e (k + 1)) = true := by
    obtain rfl | h := hlast
    · rfl
    · rw [h, Bool.not_false, Bool.or_true]
  rw [State.scanFinal, hm, hp, hend]; rfl

variable (hm : (s.slot seg k).belongs e k = true) (hmark : ¬ s.markerAt seg e k) (htorn : ¬ s.tornAt seg e k)
include hm hmark htorn

/-- A slot that ends nothing: the scan goes on, or finds the bad slot 15. -/
theorem State.scanFinal_of_data :
    s.scanFinal seg e (n + 1) k = if k = 15 then .badSlot else s.scanFinal seg e n (k + 1) := by
  have hnomark : ((s.slot seg k).passes && ((s.slot seg k).isKind .commit || (s.slot seg k).isKind .abort)) = false := by
    rw [Bool.and_eq_false_iff, Bool.or_eq_false_iff, ← Bool.not_eq_true, ← Bool.not_eq_true, ← Bool.not_eq_true, ← not_or,
      ← not_and_or]
    exact fun ⟨hp, hk⟩ => hmark ⟨hm, hk, hp⟩
  have hnotorn : (!(s.slot seg k).passes && (k == Config.lastSlot || !(s.slot seg (k + 1)).belongs e (k + 1))) = false := by
    rw [← Bool.not_eq_true, Bool.and_eq_true, Bool.or_eq_true, Bool.not_eq_true', Bool.not_eq_true', beq_iff_eq]
    exact fun ⟨hp, hl⟩ => htorn ⟨hm, hp, hl⟩
  rw [State.scanFinal, hm, hnomark, hnotorn]
  by_cases h15 : k = 15
  · rw [if_pos h15, h15]; rfl
  · have hne : (k == Config.lastSlot) = false := beq_eq_false_iff_ne.2 h15
    rw [if_neg h15, hne]; rfl

end

theorem State.scanFinal_skip (seg : Nat) (e : Identity) (n d i : Nat) (hi : i + d ≤ 15)
    (h : ∀ j, i ≤ j → j < i + d →
      (s.slot seg j).belongs e j = true ∧ ¬ s.markerAt seg e j ∧ ¬ s.tornAt seg e j) :
    s.scanFinal seg e (d + n) i = s.scanFinal seg e n (i + d) := by
  induction d generalizing i with
  | zero => rw [Nat.zero_add]; rfl
  | succ d ih =>
    obtain ⟨hm, hmark, htorn⟩ := h i (Nat.le_refl i) (by omega)
    rw [Nat.add_right_comm d 1 n, State.scanFinal_of_data _ hm hmark htorn, if_neg (by omega),
      ih (i + 1) (by omega) fun j hj hlt => h j (by omega) (by omega), Nat.add_right_comm i 1 d]
    rfl

/-- RESTORED records counted as the records of a filtered list (R149). -/
theorem State.countRestored_eq (seg n k : Nat) :
    s.countRestored seg n k =
      ((List.range' k n).filter fun j => (s.slot seg j).isKind .restored && (s.slot seg j).passes).length := by
  induction n generalizing k with
  | zero => rfl
  | succ n ih =>
    rw [State.countRestored, ih, List.range'_succ, List.filter_cons]
    split
    · rw [List.length_cons, Nat.add_comm]
    · rw [Nat.zero_add]

/-! ### The judgement goes on -/

theorem State.nextChain_eq {v : Recovery} {c : CtxNum} {more : List CtxNum} (h : v.toJudge = c :: more) :
    s.nextChain v =
      if more = [] then s.queueJobs { v with toJudge := [] }
      else { s with work := .judge { v with toJudge := more } none } := by
  unfold State.nextChain
  rw [h]
  cases more <;> rfl

theorem State.ctx_nextChain (v : Recovery) (c : CtxNum) (y : Context) : ((s.setCtx c y).nextChain v).ctx c = y := by
  rw [State.ctx, (TablesStand.nextChain v).contexts]
  exact State.ctx_setCtx_self ..

/-! ### The end of the first grant of a chain -/

theorem exec_judgementFinalSegment {v : Recovery} (hw : s.work = .judge v none) (hh : s.holder = some .be) (hg : s.grant = none) (hm : s.mode ≠ .frozen) :
    exec (.judgementFinalSegment .toEnd) s = .next ((s.startGrant .judgeFinal []).finishJudgeFinal.arbitrate) := by
  have hdue : s.dueTask = some .judgeFinal := by rw [State.dueTask, hw]
  have hstart : s.startTask .judgeFinal = s.startGrant .judgeFinal (s.taskPlan .judgeFinal) := by
    rw [State.startTask, hw]
  have hread : ∀ p ∈ s.taskPlan .judgeFinal, ∃ b, p = (PortOp.read b).plain := by
    intro p hp
    rw [State.taskPlan, hw] at hp
    exact State.slotsReads_reads hp
  exact congrArg Host.Outcome.next (State.engineRow_reading hh hg hm hdue hstart hread rfl)

section
variable {v : Recovery} {c : CtxNum} {more : List CtxNum} {x first : LiveSeg} (hw : s.work = .judge v none)
  (hj : v.toJudge = c :: more) (hx : (groupOf v.found c).getLast? = some x)
  (hfirst : (groupOf v.found c).head? = some first)
include hw hj hx hfirst

theorem State.finishJudgeFinal_eq :
    s.finishJudgeFinal =
      match s.scanFinal x.seg (s.liveIdentity x) 15 1 with
      | .marker k =>
        (s.freePort.setCtx c (endedContext (groupOf v.found c) x k (s.slot x.seg k))).nextChain
          { v with marked := c :: v.marked }
      | .badSlot => (s.freePort.faultChain c (groupOf v.found c)).nextChain v
      | .ends fill =>
        if first.idx ≠ 0 then (s.freePort.faultChain c (groupOf v.found c)).nextChain v
        else if (groupOf v.found c).length = 1 then
          (s.freePort.setCtx c (.active (.rollingBack .recovery)
            (openEnded (groupOf v.found c) x fill (fill - 1) (s.countRestored x.seg (fill - 1) 1)))).nextChain v
        else { s.freePort with
          work := .judge v (some ⟨fill, s.countRestored x.seg (fill - 1) 1, (asChain (groupOf v.found c)).dropLast, 0, 0⟩) } := by
  simp only [State.finishJudgeFinal, hw, hj, hx, hfirst] <;>
  cases s.scanFinal x.seg (s.liveIdentity x) 15 1 <;> rfl

end

/-- What the judgement of a chain of context `c` leaves: the pool, the claims and the other contexts. -/
structure JudgedFor (c : CtxNum) (s t : State) : Prop where
  pool : t.pool = s.pool
  claims : t.claims = s.claims
  others : ∀ d, d ≠ c → t.ctx d = s.ctx d

namespace JudgedFor

variable {c : CtxNum} {t u : State}

theorem then_stands (h : JudgedFor c s t) (h' : TablesStand t u) : JudgedFor c s u where
  pool := h'.pool.trans h.pool
  claims := (State.claims_of_aside h'.aside).trans h.claims
  others d hd := by
    rw [State.ctx, h'.contexts]
    exact h.others d hd

theorem setCtx (x : Context) : JudgedFor c s (s.freePort.setCtx c x) :=
  ⟨rfl, rfl, fun d hd => (s.freePort.setCtx_ctx c d x).trans (if_neg hd)⟩

theorem faultChain (g : List LiveSeg) : JudgedFor c s (s.freePort.faultChain c g) where
  pool := State.faultChain_pool ..
  claims := (State.claims_of_aside (State.faultChain_aside ..)).trans rfl
  others _ hd := State.ctx_faultChain_ne hd g

theorem finishJudgeFinal {v : Recovery} {more : List CtxNum} {x first : LiveSeg} (hw : s.work = .judge v none)
    (hj : v.toJudge = c :: more) (hx : (groupOf v.found c).getLast? = some x)
    (hfirst : (groupOf v.found c).head? = some first) : JudgedFor c s s.finishJudgeFinal := by
  rw [State.finishJudgeFinal_eq hw hj hx hfirst]
  split
  · exact (setCtx _).then_stands (TablesStand.nextChain _)
  · exact (faultChain _).then_stands (TablesStand.nextChain _)
  · split
    · exact (faultChain _).then_stands (TablesStand.nextChain _)
    · split
      · exact (setCtx _).then_stands (TablesStand.nextChain _)
      · exact ⟨rfl, rfl, fun d hd => rfl⟩

end JudgedFor

theorem Record.not_commit_of_abort {r : Record} (h : r.isKind .abort = true) : r.isKind .commit = false := by
  have hk : kindField r.w0 = RecordKind.abort.code := beq_iff_eq.1 h
  rw [Record.isKind, hk]; rfl

/-- The record of an epoch with an ABORT marker, by its discard flag (R150). -/
theorem endedContext_of_abort {g : List LiveSeg} {x : LiveSeg} {k : Nat} {m : Record} (h : m.isKind .abort = true) :
    endedContext g x k m = .active (if discardFlag m.w2 then .discarding else .rollingBack .recovery)
      ⟨x.src, x.seq, asChain g, k, true, countField m.w1, countField m.w1, true⟩ := by
  rw [endedContext, Record.not_commit_of_abort h]; rfl

/-- Settles O48: the scan reaches slot `k` and what it holds decides; each finding sets the context or faults the chain. -/
theorem finalSegmentIsJudged : Obligations.FinalSegmentIsJudged := by
  intro s v c more x first k hh hg hw hmode hj hx hfirst hk hk' g chain r mine marker torn next judged ended broken restored
    fault hbefore
  have hexec := exec_judgementFinalSegment hw hh hg (by rw [hmode]; nofun)
  let start : State := s.startGrant .judgeFinal []
  have hfree : start.freePort = s.freed .be := State.freePort_eq_freed (s := start) hh
  have hend := State.finishJudgeFinal_eq (s := start) hw hj hx hfirst
  have hscan : start.scanFinal x.seg (start.liveIdentity x) 15 1 =
      start.scanFinal x.seg (start.liveIdentity x) (15 - k + 1) k := by
    have hskip := State.scanFinal_skip (s := start) x.seg (start.liveIdentity x) (15 - k + 1) (k - 1) 1 (by omega)
      fun j hj hlt => hbefore j hj (by omega)
    rwa [show k - 1 + (15 - k + 1) = 15 by omega, show 1 + (k - 1) = k by omega] at hskip
  have hnext (w : Recovery) (u : State) (hwj : w.toJudge = c :: more) : u.nextChain w = next w u := State.nextChain_eq hwj
  have hctx (w : Recovery) (y : Context) (hwj : w.toJudge = c :: more) : (judged w y).ctx c = y := by
    show (State.arbitrate (next w _)).ctx c = y
    rw [← hnext w _ hwj, State.ctx, State.arbitrate_contexts]
    exact State.ctx_nextChain ..
  have hbroken : (s.freed .be).faultChain c g = ((s.freed .be).setCtx c broken).raise .faulted (some c) (some first.src)
      (some 6#8) 0#16 none := State.faultChain_of_head hfirst c
  have hfault : start.finishJudgeFinal = (start.freePort.faultChain c g).nextChain v →
      start.finishJudgeFinal.arbitrate.ctx c = broken ∧ start.finishJudgeFinal.arbitrate = fault := by
    intro h
    have heq : start.finishJudgeFinal = next v (((s.freed .be).setCtx c broken).raise .faulted (some c) (some first.src)
        (some 6#8) 0#16 none) := by rw [h, hfree, hbroken, hnext v _ hj]
    refine ⟨?_, congrArg State.arbitrate heq⟩
    rw [State.ctx, State.arbitrate_contexts, h, (TablesStand.nextChain v).contexts]
    exact State.ctx_faultChain_self hfirst
  have hkept := JudgedFor.finishJudgeFinal (s := start) hw hj hx hfirst
  refine ⟨_, hexec, ?mem, ?pool, ?claims, fun d hd => ?others, fun hm => ?marker, fun hm => ?ends, fun h15 hm hmark htorn => ?bad⟩
  case mem => rw [State.arbitrate_mem]; exact (EndKept.finishJudgeFinal (s := start)).mem
  case pool => rw [State.arbitrate_pool]; exact hkept.pool
  case claims => rw [State.arbitrate_claims]; exact hkept.claims
  case others => rw [State.ctx, State.arbitrate_contexts]; exact hkept.others d hd
  case marker =>
    intro w n
    have hfound : start.scanFinal x.seg (start.liveIdentity x) (15 - k + 1) k = .marker k :=
      State.scanFinal_of_marker (s := start) _ hm
    rw [hscan, hfound, hfree] at hend
    have hjudged : start.finishJudgeFinal.arbitrate = judged w (endedContext g x k (r k)) := by
      rw [hend]
      exact congrArg State.arbitrate (hnext w _ hj)
    have heq {y : Context} (hy : endedContext g x k (r k) = y) :
        start.finishJudgeFinal.arbitrate.ctx c = y ∧ start.finishJudgeFinal.arbitrate = judged w y := by
      rw [hjudged, hy]
      exact ⟨hctx w y hj, rfl⟩
    refine ⟨fun hcommit => heq (if_pos hcommit), fun habort => ?_⟩
    have hended := endedContext_of_abort (g := g) (x := x) (k := k) habort
    refine ⟨fun h0 => heq ?_, fun h1 => heq ?_, ?_⟩
    · rw [hended, h0]; rfl
    · rw [hended, h1]; rfl
    · cases hflag : discardFlag (r k).w2 with
      | false => exact .inl (heq (by rw [hended, hflag]; rfl)).2
      | true => exact .inr (heq (by rw [hended, hflag]; rfl)).2
  case ends =>
    have hends : start.scanFinal x.seg (start.liveIdentity x) (15 - k + 1) k = .ends k := by
      obtain hm | hm := hm
      · exact State.scanFinal_of_foreign (s := start) _ hm
      · exact State.scanFinal_of_torn (s := start) _ hm
    rw [hscan, hends] at hend
    dsimp only at hend
    refine ⟨fun hidx => hfault (hend.trans (if_pos hidx)), fun hidx hone => ?_, fun hidx htwo => ?_⟩
    · intro y
      have hy : start.finishJudgeFinal.arbitrate = judged v y := by
        rw [hend, if_neg (fun h => h hidx), if_pos hone, hfree, State.countRestored_eq]
        exact congrArg State.arbitrate (hnext v _ hj)
      exact ⟨by rw [hy]; exact hctx v y hj, hy⟩
    · have hlong : ¬ (groupOf v.found c).length = 1 := Nat.ne_of_gt htwo
      have hmore : start.finishJudgeFinal.arbitrate =
          { s.freed .be with work := .judge v (some ⟨k, restored, chain.dropLast, 0, 0⟩) }.arbitrate := by
        rw [hend, if_neg (fun h => h hidx), if_neg hlong, hfree, State.countRestored_eq]
        rfl
      refine ⟨?_, hmore⟩
      rw [hmore, State.ctx, State.arbitrate_contexts]
      rfl
  case bad =>
    have hbad : start.scanFinal x.seg (start.liveIdentity x) (15 - k + 1) k = .badSlot :=
      (State.scanFinal_of_data (s := start) _ hm hmark htorn).trans (if_pos h15)
    rw [hscan, hbad] at hend
    exact hfault hend

end Sys2Proof.Machine
end

section
/-! SUPPORT. The judgement of the segments before the last, and the queueing of the jobs after the last chain. -/

namespace Sys2Proof.Machine

variable {s : State}

/-! ### The scan of a segment (R149) -/

/-- A record of the epoch in slot `j` that is no marker. -/
def State.dataAt (s : State) (seg : Nat) (e : Identity) (j : Nat) : Prop :=
  (s.slot seg j).belongs e j = true ∧ (s.slot seg j).isKind .commit = false ∧ (s.slot seg j).isKind .abort = false

section
variable {seg : Nat} {e : Identity} {k : Nat} (n : Nat)

theorem State.scanSegment_of_foreign (h : (s.slot seg k).belongs e k = false) :
    s.scanSegment seg e (n + 1) k = .short k := by
  rw [State.scanSegment, h]; rfl

theorem State.scanSegment_of_marker (h : (s.slot seg k).belongs e k = true)
    (hk : (s.slot seg k).isKind .commit = true ∨ (s.slot seg k).isKind .abort = true) :
    s.scanSegment seg e (n + 1) k = .misplacedMarker := by
  have hkind : ((s.slot seg k).isKind .commit || (s.slot seg k).isKind .abort) = true := by
    rw [Bool.or_eq_true]; exact hk
  rw [State.scanSegment, h, hkind]; rfl

theorem State.scanSegment_of_data (h : s.dataAt seg e k) :
    s.scanSegment seg e (n + 1) k = s.scanSegment seg e n (k + 1) := by
  obtain ⟨hm, hc, ha⟩ := h
  rw [State.scanSegment, hm, hc, ha]; rfl

end

theorem State.scanSegment_skip (seg : Nat) (e : Identity) (n d i : Nat)
    (h : ∀ j, i ≤ j → j < i + d → s.dataAt seg e j) : s.scanSegment seg e (d + n) i = s.scanSegment seg e n (i + d) := by
  induction d generalizing i with
  | zero => rw [Nat.zero_add]; rfl
  | succ d ih =>
    rw [Nat.add_right_comm d 1 n, State.scanSegment_of_data _ (h i (Nat.le_refl i) (by omega)),
      ih (i + 1) fun j hj hlt => h j (by omega) (by omega), Nat.add_right_comm i 1 d]
    rfl

/-! ### The end of the grant -/

theorem exec_judgementSegment {v : Recovery} {q : JudgeScan} (hw : s.work = .judge v (some q)) (hh : s.holder = some .be)
    (hg : s.grant = none) (hm : s.mode ≠ .frozen) :
    exec (.judgementSegment .toEnd) s = .next ((s.startGrant .judgeSegment []).finishJudgeSegment.arbitrate) := by
  have hdue : s.dueTask = some .judgeSegment := by rw [State.dueTask, hw]
  have hstart : s.startTask .judgeSegment = s.startGrant .judgeSegment (s.taskPlan .judgeSegment) := by
    rw [State.startTask, hw]
  have hread : ∀ p ∈ s.taskPlan .judgeSegment, ∃ b, p = (PortOp.read b).plain := by
    intro p hp
    rw [State.taskPlan, hw] at hp
    exact State.slotsReads_reads hp
  exact congrArg Host.Outcome.next (State.engineRow_reading hh hg hm hdue hstart hread rfl)

section
variable {v : Recovery} {q : JudgeScan} {c : CtxNum} {more : List CtxNum} {y : ChainEntry} {rest : List ChainEntry}
  {x : LiveSeg} (hw : s.work = .judge v (some q)) (hj : v.toJudge = c :: more) (hq : q.left = y :: rest)
  (hx : (groupOf v.found c).getLast? = some x)
include hw hj hq hx

theorem State.finishJudgeSegment_eq :
    s.finishJudgeSegment =
      match s.scanSegment y.seg { s.liveIdentity x with idx := y.idx } 14 1 with
      | .short k =>
        (s.freePort.faultShort c y.seg k (openEnded (groupOf v.found c) x q.fill (q.pre + (k - 1))
          (q.restored + s.countRestored y.seg (k - 1) 1))).nextChain v
      | .misplacedMarker => (s.freePort.faultChain c (groupOf v.found c)).nextChain v
      | .full =>
        if rest = [] then
          (s.freePort.setCtx c (.active (.rollingBack .recovery) (openEnded (groupOf v.found c) x q.fill
            (q.pre + 14 + (q.fill - 1)) (q.restored + s.countRestored y.seg 14 1 + q.finalRestored)))).nextChain v
        else { s.freePort with
          work := .judge v (some { q with
            left := rest, pre := q.pre + 14, restored := q.restored + s.countRestored y.seg 14 1 }) } := by
  simp only [State.finishJudgeSegment, hw, hj, hq, hx, List.isEmpty_iff] <;>
  cases s.scanSegment y.seg { s.liveIdentity x with idx := y.idx } 14 1 <;> rfl

end

/-! ### The queueing of the jobs (R150) -/

theorem newestRecord_of_last {e : Epoch} {front : List ChainEntry} {z : ChainEntry} (h : e.chain = front ++ [z]) :
    (2 ≤ e.fill → newestRecord e = some ⟨z.seg, e.fill - 1⟩) ∧
    (e.fill ≤ 1 → front = [] → newestRecord e = none) ∧
    (∀ older u, e.fill ≤ 1 → front = older ++ [u] → newestRecord e = some ⟨u.seg, 14⟩) := by
  have hrev : e.chain.reverse = z :: front.reverse := by rw [h, List.reverse_append]; rfl
  unfold newestRecord
  rw [hrev]
  refine ⟨fun h2 => if_pos h2, fun h1 hf => ?_, fun older u h1 hf => ?_⟩
  · rw [hf]
    exact if_neg (Nat.not_lt_of_le h1)
  · rw [hf, List.reverse_append]
    exact if_neg (Nat.not_lt_of_le h1)

theorem State.jobEntry_of_rollingBack {d : CtxNum} {k : Cause} {e : Epoch} (hc : s.ctx d = .active (.rollingBack k) e) :
    s.jobEntry d = some ⟨d, if e.markerWritten then none else newestRecord e⟩ := by
  rw [State.jobEntry, hc]

theorem State.jobEntry_of_no_job {d : CtxNum} (h : (s.ctx d).hasJob = false) : s.jobEntry d = none := by
  unfold State.jobEntry
  split
  · next hc => rw [hc] at h; exact nomatch h
  · next hc => rw [hc] at h; exact nomatch h
  · next hc => rw [hc] at h; exact nomatch h
  · rfl

/-- Settles O49: the scan of the fourteen slots and its three findings; and the queue entries of the contexts with a job. -/
theorem otherSegmentsAreJudged : Obligations.OtherSegmentsAreJudged := by
  refine ⟨fun s v q c more y rest x first hh hg hw hmode hj hq hx hfirst => ?judged, fun t v => ?queued⟩
  case judged =>
    intro chain r mine data restored next
    have hexec := exec_judgementSegment hw hh hg (by rw [hmode]; nofun)
    let start : State := s.startGrant .judgeSegment []
    have hfree : start.freePort = s.freed .be := State.freePort_eq_freed (s := start) hh
    have hend := State.finishJudgeSegment_eq (s := start) hw hj hq hx
    have hnext (u : State) : u.nextChain v = next u := State.nextChain_eq hj
    refine ⟨fun k hk hk' hbefore => ?scan, fun hall => ?full⟩
    case scan =>
      have hscan : start.scanSegment y.seg { start.liveIdentity x with idx := y.idx } 14 1 =
          start.scanSegment y.seg { start.liveIdentity x with idx := y.idx } (14 - k + 1) k := by
        have hskip := State.scanSegment_skip (s := start) y.seg { start.liveIdentity x with idx := y.idx } (14 - k + 1)
          (k - 1) 1 fun j hj hlt => hbefore j hj (by omega)
        rwa [show k - 1 + (14 - k + 1) = 14 by omega, show 1 + (k - 1) = k by omega] at hskip
      refine ⟨fun hm => ?_, fun hm hmark => ?_⟩
      · intro e
        have hfound : start.scanSegment y.seg { start.liveIdentity x with idx := y.idx } (14 - k + 1) k = .short k :=
          State.scanSegment_of_foreign (s := start) _ hm
        rw [hscan, hfound, hfree] at hend
        dsimp only at hend
        rw [hexec, hend, hnext, State.countRestored_eq]
        rfl
      · intro e
        have hfound : start.scanSegment y.seg { start.liveIdentity x with idx := y.idx } (14 - k + 1) k = .misplacedMarker :=
          State.scanSegment_of_marker (s := start) _ hm hmark
        rw [hscan, hfound, hfree] at hend
        dsimp only at hend
        rw [hexec, hend, hnext, State.faultChain_of_head hfirst]
        rfl
    case full =>
      have hfound : start.scanSegment y.seg { start.liveIdentity x with idx := y.idx } 14 1 = .full :=
        State.scanSegment_skip (s := start) y.seg { start.liveIdentity x with idx := y.idx } 0 14 1
          fun j hj hlt => hall j hj (by omega)
      rw [hfound, hfree] at hend
      dsimp only at hend
      rw [State.countRestored_eq] at hend
      refine ⟨fun hrest => ?_, fun hrest => ?_⟩
      · rw [hexec, hend]
        rw [if_neg hrest]
        rfl
      · rw [hexec, hend]
        rw [if_pos hrest, hnext]
        rfl
  case queued =>
    refine ⟨t.jobEntry, fun d hd => ?_, fun d k e hc hm => ?_, fun d k e front z hc hm hz => ?_,
      fun d hd => State.jobEntry_of_no_job hd, ?_⟩
    · obtain ⟨e, hc | hc⟩ := hd <;> rw [State.jobEntry, hc]
    · rw [State.jobEntry_of_rollingBack hc, if_pos hm]
    · obtain ⟨hlast, hnone, holder⟩ := newestRecord_of_last hz
      rw [State.jobEntry_of_rollingBack hc, hm]
      refine ⟨fun h2 => ?_, fun h1 hf => ?_, fun older u h1 hf => ?_⟩
      · rw [hlast h2]; rfl
      · rw [hnone h1 hf]; rfl
      · rw [holder older u h1 hf]; rfl
    · intro queued
      have heq : t.queueJobs v = queued.afterEngine := rfl
      have hafter := State.afterEngine_of_replay (s := queued) (v := v) rfl
      refine ⟨fun hstay => ?_, fun hq hm => ?_⟩
      · rw [heq, hafter, if_neg fun h => ?_]
        obtain hq | hm := hstay
        · exact hq h.2
        · exact hm h.1
      · rw [heq, hafter, if_pos ⟨hm, hq⟩]

end Sys2Proof.Machine
end

section
/-! SUPPORT. The claim rebuild of a FAULTED context's segment, and the ends of replay and of recovery. -/

namespace Sys2Proof.Machine

variable {s : State}

/-! ### The claims of a rebuild (R56) -/

theorem State.owner_mem {a : Addr} {d : CtxNum} (h : s.owner a = some d) : ⟨a, d⟩ ∈ s.claims := by
  obtain ⟨y, hy, rfl⟩ := Option.map_eq_some_iff.1 h
  obtain rfl : y.addr = a := beq_iff_eq.1 (List.find?_some (p := fun k : Claim => k.addr == a) hy)
  exact List.mem_of_find?_eq_some hy

/-- The claims grow by claims of `c` on words that no context claimed, and nothing else changes. -/
structure ClaimsGrow (c : CtxNum) (s t : State) : Prop where
  rest : t = { s with claims := t.claims }
  grown : ∃ l, t.claims = l ++ s.claims
  owners : ∀ a d, s.owner a = some d → t.owner a = some d
  fresh : ∀ y ∈ t.claims, y ∈ s.claims ∨ y.owner = c

namespace ClaimsGrow

variable {c : CtxNum} {t u : State}

theorem refl (s : State) : ClaimsGrow c s s := ⟨rfl, ⟨[], rfl⟩, fun _ _ h => h, fun _ h => .inl h⟩

theorem trans (h : ClaimsGrow c s t) (h' : ClaimsGrow c t u) : ClaimsGrow c s u where
  rest := by rw [h'.rest, h.rest]
  grown := by
    obtain ⟨l, hl⟩ := h.grown
    obtain ⟨l', hl'⟩ := h'.grown
    exact ⟨l' ++ l, by rw [hl', hl, List.append_assoc]⟩
  owners a d hd := h'.owners a d (h.owners a d hd)
  fresh y hy := (h'.fresh y hy).elim (h.fresh y) .inr

theorem insertClaim (a : Addr) (c : CtxNum) : ClaimsGrow c s (s.insertClaim a c) := by
  by_cases h : ((s.owner a).isSome || decide (Config.claimCapacity ≤ s.occupancy)) = true
  · rw [State.insertClaim, if_pos h]
    exact refl s
  · rw [State.insertClaim, if_neg h]
    refine ⟨rfl, ⟨[⟨a, c⟩], rfl⟩, fun b d hd => ?_, fun y hy => (List.mem_cons.1 hy).elim (fun e => .inr (by rw [e])) .inl⟩
    have hne : b ≠ a := by
      rintro rfl
      rw [hd] at h
      exact h rfl
    have hfind : (⟨a, c⟩ :: s.claims).find? (fun k => k.addr == b) = s.claims.find? fun k => k.addr == b :=
      List.find?_cons_of_neg (by rw [beq_iff_eq]; exact hne.symm)
    rw [State.owner, hfind]
    exact hd

theorem length_le (h : ClaimsGrow c s t) : s.claims.length ≤ t.claims.length := by
  obtain ⟨l, hl⟩ := h.grown
  rw [hl, List.length_append]
  exact Nat.le_add_left ..

theorem claimsHeld_le (h : ClaimsGrow c s t) (d : CtxNum) : s.claimsHeld d ≤ t.claimsHeld d := by
  obtain ⟨l, hl⟩ := h.grown
  rw [State.claimsHeld, State.claimsHeld, hl, List.countP_append]
  exact Nat.le_add_left ..

theorem slot (h : ClaimsGrow c s t) (n k : Nat) : t.slot n k = s.slot n k := by rw [h.rest]; rfl

theorem faultPos (h : ClaimsGrow c s t) (d : CtxNum) : t.faultPos d = s.faultPos d := by rw [h.rest]; rfl

theorem limits (h : ClaimsGrow c s t) : t.limits = s.limits := by rw [h.rest]

end ClaimsGrow

/-- A record that the rebuild takes (R18, R56). -/
def State.takes (s : State) (c : CtxNum) (own : Identity) (seg j : Nat) : Prop :=
  (s.slot seg j).belongs own j = true ∧ (s.slot seg j).passes = true ∧ (s.slot seg j).isKind .pre = true ∧
    s.faultPos c ≠ some ⟨seg, j⟩

/-- A word is claimed, or the table is full, or the context holds QCLM claims (R56). -/
def State.served (s : State) (c : CtxNum) (a : Addr) : Prop :=
  (∃ d, s.owner a = some d) ∨ 512 ≤ s.claims.length ∨ s.limits.qclm ≤ s.claimsHeld c

theorem ClaimsGrow.served {c : CtxNum} {t : State} (h : ClaimsGrow c s t) {a : Addr} (ha : s.served c a) : t.served c a := by
  obtain ⟨d, hd⟩ | hfull | hheld := ha
  · exact .inl ⟨d, h.owners a d hd⟩
  · exact .inr (.inl (hfull.trans h.length_le))
  · exact .inr (.inr (h.limits ▸ hheld.trans (h.claimsHeld_le c)))

theorem State.served_insertClaim (a : Addr) (c : CtxNum) : (s.insertClaim a c).served c a := by
  by_cases h : ((s.owner a).isSome || decide (Config.claimCapacity ≤ s.occupancy)) = true
  · rw [State.insertClaim, if_pos h]
    obtain h | h := Bool.or_eq_true_iff.1 h
    · exact .inl (Option.isSome_iff_exists.1 h)
    · exact .inr (.inl (of_decide_eq_true h))
  · rw [State.insertClaim, if_neg h]
    exact .inl ⟨c, congrArg (Option.map Claim.owner) (List.find?_cons_of_pos (beq_self_eq_true a))⟩

section
variable (c : CtxNum) (own : Identity) (seg : Nat)

theorem State.rebuildSlot_of_taken {k : Nat} (h : s.takes c own seg k) (hheld : s.claimsHeld c < s.limits.qclm) :
    s.rebuildSlot c own seg k = s.insertClaim (addrField (s.slot seg k).w1) c := by
  obtain ⟨hm, hp, hk, hpos⟩ := h
  unfold State.rebuildSlot
  exact if_pos (by simp only [hm, hp, hk, bne_iff_ne.2 hpos, decide_eq_true hheld, Bool.and_self])

theorem State.rebuildSlot_of_not_taken {k : Nat} (h : ¬ (s.takes c own seg k ∧ s.claimsHeld c < s.limits.qclm)) :
    s.rebuildSlot c own seg k = s := by
  unfold State.rebuildSlot
  refine if_neg fun hall => h ?_
  simp only [Bool.and_eq_true, bne_iff_ne, decide_eq_true_iff] at hall
  obtain ⟨⟨⟨⟨hm, hp⟩, hk⟩, hpos⟩, hheld⟩ := hall
  exact ⟨⟨hm, hp, hk, hpos⟩, hheld⟩

theorem State.rebuildSlot_grows (k : Nat) : ClaimsGrow c s (s.rebuildSlot c own seg k) := by
  by_cases h : s.takes c own seg k ∧ s.claimsHeld c < s.limits.qclm
  · rw [State.rebuildSlot_of_taken c own seg h.1 h.2]
    exact ClaimsGrow.insertClaim ..
  · rw [State.rebuildSlot_of_not_taken c own seg h]
    exact ClaimsGrow.refl s

theorem State.rebuildSlot_served {k : Nat} (h : s.takes c own seg k) :
    (s.rebuildSlot c own seg k).served c (addrField (s.slot seg k).w1) := by
  by_cases hheld : s.claimsHeld c < s.limits.qclm
  · rw [State.rebuildSlot_of_taken c own seg h hheld]
    exact State.served_insertClaim ..
  · rw [State.rebuildSlot_of_not_taken c own seg fun hall => hheld hall.2]
    exact .inr (.inr (Nat.le_of_not_lt hheld))

theorem State.rebuildSlot_new {k : Nat} {y : Claim} (hy : y ∈ (s.rebuildSlot c own seg k).claims) :
    y ∈ s.claims ∨ (y.owner = c ∧ s.takes c own seg k ∧ y.addr = addrField (s.slot seg k).w1) := by
  by_cases h : s.takes c own seg k ∧ s.claimsHeld c < s.limits.qclm
  · rw [State.rebuildSlot_of_taken c own seg h.1 h.2, State.insertClaim] at hy
    split at hy
    · exact .inl hy
    · obtain rfl | hy := List.mem_cons.1 hy
      · exact .inr ⟨rfl, h.1, rfl⟩
      · exact .inl hy
  · rw [State.rebuildSlot_of_not_taken c own seg h] at hy
    exact .inl hy

theorem ClaimsGrow.takes_iff {t : State} (h : ClaimsGrow c s t) (j : Nat) : t.takes c own seg j ↔ s.takes c own seg j := by
  rw [State.takes, State.takes, h.slot, h.faultPos]

/-- The rebuild of a run of slots: what is claimed, and by which records. -/
theorem State.rebuildSlots_claims (n k : Nat) (s : State) :
    ClaimsGrow c s (s.rebuildSlots c own seg n k) ∧
    (∀ j, k ≤ j → j < k + n → s.takes c own seg j →
      (s.rebuildSlots c own seg n k).served c (addrField (s.slot seg j).w1)) ∧
    (∀ y ∈ (s.rebuildSlots c own seg n k).claims, y ∈ s.claims ∨
      (y.owner = c ∧ ∃ j, k ≤ j ∧ j < k + n ∧ s.takes c own seg j ∧ y.addr = addrField (s.slot seg j).w1)) := by
  induction n generalizing k s with
  | zero => exact ⟨.refl s, fun j hj hlt => absurd hlt (Nat.not_lt_of_le hj), fun y hy => .inl hy⟩
  | succ n ih =>
    have hfirst : ClaimsGrow c s (s.rebuildSlot c own seg k) := State.rebuildSlot_grows c own seg k
    obtain ⟨hgrow, hserved, hnew⟩ := ih (k + 1) (s.rebuildSlot c own seg k)
    refine ⟨hfirst.trans hgrow, fun j hj hlt htake => ?_, fun y hy => ?_⟩
    · by_cases hjk : j = k
      · subst hjk
        exact hgrow.served (State.rebuildSlot_served c own seg htake)
      · have hlater := hserved j (by omega) (by omega) ((hfirst.takes_iff c own seg j).2 htake)
        rwa [hfirst.slot] at hlater
    · obtain hy | ⟨hown, j, hj, hlt, htake, haddr⟩ := hnew y hy
      · obtain hy | ⟨hown, htake, haddr⟩ := State.rebuildSlot_new c own seg hy
        · exact .inl hy
        · exact .inr ⟨hown, k, Nat.le_refl k, by omega, htake, haddr⟩
      · refine .inr ⟨hown, j, by omega, by omega, (hfirst.takes_iff c own seg j).1 htake, ?_⟩
        rw [haddr, hfirst.slot]

end

/-! ### The end of a rebuild grant (R152) -/

theorem exec_claimRebuild {v : Recovery} {c : CtxNum} {x : ChainEntry} {rest : List (CtxNum × ChainEntry)}
    (hw : s.work = .rebuild v ((c, x) :: rest)) (hh : s.holder = some .be) (hg : s.grant = none) (hm : s.mode ≠ .frozen) :
    exec (.claimRebuild .toEnd) s = .next ((s.startGrant .rebuild []).finishRebuild.arbitrate) := by
  have hdue : s.dueTask = some .rebuild := by rw [State.dueTask, hw]
  have hstart : s.startTask .rebuild = s.startGrant .rebuild (s.taskPlan .rebuild) := by
    rw [State.startTask, hw]
  have hread : ∀ p ∈ s.taskPlan .rebuild, ∃ b, p = (PortOp.read b).plain := by
    intro p hp
    rw [State.taskPlan, hw] at hp
    exact State.slotsReads_reads hp
  exact congrArg Host.Outcome.next (State.engineRow_reading hh hg hm hdue hstart hread rfl)

theorem State.finishRebuild_eq {v : Recovery} {c : CtxNum} {x : ChainEntry} {rest : List (CtxNum × ChainEntry)}
    (hw : s.work = .rebuild v ((c, x) :: rest)) (hm : s.mode = .recovering) :
    s.finishRebuild =
      if rest = [] then (s.freePort.rebuildSlots c (s.rebuildIdentity v c x) x.seg 14 1).recoveryDone v
      else { s.freePort.rebuildSlots c (s.rebuildIdentity v c x) x.seg 14 1 with work := .rebuild v rest } := by
  simp only [State.finishRebuild, hw, hm, beq_self_eq_true, Bool.and_true, List.isEmpty_iff]

/-- The identity against which the rebuild judges (R56). -/
theorem State.rebuildIdentity_eq {v : Recovery} {c : CtxNum} {x : ChainEntry} {k : Cause} {f : FaultInfo} {e : Epoch}
    {own : Identity} (hc : s.ctx c = .active (.faulted k f) e)
    (h : (f.kind ≠ .chain ∧ own = ⟨s.gen, c, e.source, x.idx, e.seq⟩) ∨
      (f.kind = .chain ∧ ∃ y, v.found.find? (fun y => y.seg == x.seg) = some y ∧
        own = ⟨s.gen, y.ctx, y.src, y.idx, y.seq⟩)) : s.rebuildIdentity v c x = own := by
  obtain ⟨kind, origin, pos⟩ := f
  unfold State.rebuildIdentity
  rw [hc]
  obtain ⟨hkind, rfl⟩ | ⟨hkind, y, hy, rfl⟩ := h
  · cases kind with
    | chain => exact absurd rfl hkind
    | check | foreign | short => rfl
  · obtain rfl : kind = .chain := hkind
    simp only [hy] <;> rfl

theorem State.faultedContexts_eq :
    s.faultedContexts = ([0, 1, 2, 3, 4, 5, 6, 7] : List CtxNum).filter fun d =>
      match s.ctx d with
      | .active (.faulted _ _) _ => true
      | _ => false :=
  List.filter_congr fun d _ => by
    cases s.ctx d with
    | free => rfl
    | active p e => cases p <;> rfl

/-! ### The epoch counter (R152) -/

theorem foldl_max_seq (l : List LiveSeg) (x : LiveSeg) :
    ∃ z ∈ x :: l, l.foldl (fun m y => if m < y.seq then y.seq else m) x.seq = z.seq ∧
      ∀ y ∈ x :: l, y.seq.toNat ≤ z.seq.toNat := by
  induction l generalizing x with
  | nil => exact ⟨x, List.mem_cons_self, rfl, fun y hy => by rw [List.mem_singleton.1 hy]⟩
  | cons w l ih =>
    rw [List.foldl_cons]
    by_cases hlt : x.seq < w.seq
    · obtain ⟨z, hz, hfold, hmax⟩ := ih w
      rw [if_pos hlt]
      refine ⟨z, List.mem_cons_of_mem x hz, hfold, fun y hy => ?_⟩
      obtain rfl | hy := List.mem_cons.1 hy
      · exact (Nat.le_of_lt (BitVec.lt_def.1 hlt)).trans (hmax w List.mem_cons_self)
      · exact hmax y hy
    · obtain ⟨z, hz, hfold, hmax⟩ := ih x
      rw [if_neg hlt]
      refine ⟨z, ?_, hfold, fun y hy => ?_⟩
      · obtain rfl | hz := List.mem_cons.1 hz
        · exact List.mem_cons_self
        · exact List.mem_cons_of_mem x (List.mem_cons_of_mem w hz)
      · obtain rfl | hy := List.mem_cons.1 hy
        · exact hmax y List.mem_cons_self
        · obtain rfl | hy := List.mem_cons.1 hy
          · exact (Nat.le_of_not_lt fun h => hlt (BitVec.lt_def.2 h)).trans (hmax x List.mem_cons_self)
          · exact hmax y (List.mem_cons_of_mem x hy)

theorem nextSeq_eq {found : List LiveSeg} {q : BitVec 16} (hnone : found = [] → q = 0#16)
    (hmax : ∀ z ∈ found, (∀ y ∈ found, y.seq.toNat ≤ z.seq.toNat) → q = z.seq + 1#16) : nextSeq found = q := by
  cases found with
  | nil => exact (hnone rfl).symm
  | cons x l =>
    obtain ⟨z, hz, hfold, hle⟩ := foldl_max_seq l x
    rw [hmax z hz hle, nextSeq, hfold]

theorem flatMap_filter {α β : Type} (p : α → Bool) (f : α → List β) (l : List α) :
    (l.filter p).flatMap f = l.flatMap fun a => if p a then f a else [] := by
  induction l with
  | nil => rfl
  | cons a l ih =>
    rw [List.flatMap_cons, ← ih]
    cases hp : p a with
    | false => rw [List.filter_cons_of_neg (by rw [hp]; nofun)]; rfl
    | true => rw [List.filter_cons_of_pos hp]; rfl

/-- Settles O50: the run of slots by `rebuildSlots_claims` and the two ends of the grant; replay's end by the counter and
the rebuilds left. -/
theorem rebuildClaimsRecords : Obligations.RebuildClaimsRecords := by
  refine ⟨fun s v c x rest k f e own hh hg hmode hw hc hown => ?rebuild, fun s v q hnone hmax => ?replay⟩
  case rebuild =>
    intro r taken faulted done
    let start : State := s.startGrant .rebuild []
    have hexec := exec_claimRebuild hw hh hg (by rw [hmode]; nofun)
    have hfree : start.freePort = s.freed .be := State.freePort_eq_freed (s := start) hh
    have hidentity : start.rebuildIdentity v c x = own := State.rebuildIdentity_eq (s := start) hc hown
    have hend := State.finishRebuild_eq (s := start) hw hmode
    rw [hidentity, hfree] at hend
    have hpos : (s.freed .be).faultPos c = f.pos := by
      show s.faultPos c = _
      rw [State.faultPos, hc]
    have htake (j : Nat) : (s.freed .be).takes c own x.seg j ↔ taken j := by
      rw [State.takes, hpos]; rfl
    obtain ⟨hgrow, hserved, hnew⟩ := State.rebuildSlots_claims c own x.seg 14 1 (s.freed .be)
    generalize hrebuilt : (s.freed .be).rebuildSlots c own x.seg 14 1 = u at hend hgrow hserved hnew
    have hstands : start.finishRebuild.contexts = u.contexts ∧ start.finishRebuild.pool = u.pool ∧
        start.finishRebuild.claims = u.claims ∧ start.finishRebuild.limits = u.limits := by
      by_cases hlast : rest = []
      · rw [hend, if_pos hlast, State.recoveryDone, State.raise_eq]
        exact ⟨rfl, rfl, rfl, rfl⟩
      · rw [hend, if_neg hlast]
        exact ⟨rfl, rfl, rfl, rfl⟩
    obtain ⟨hcontexts, hpool, hclaims, hlimits⟩ := hstands
    refine ⟨_, hexec, ?mem, ?contexts, ?pool, fun j hj hj' ht => ?served, fun y hy => ?kept, fun y hy => ?new,
      fun hlast => ?last, fun hmore => ?more⟩
    case mem => rw [State.arbitrate_mem]; exact (EndKept.finishRebuild (s := start)).mem
    case contexts => rw [State.arbitrate_contexts, hcontexts, hgrow.rest]; rfl
    case pool => rw [State.arbitrate_pool, hpool, hgrow.rest]; rfl
    case served =>
      rw [State.owner, State.claimsHeld, State.arbitrate_claims, hclaims]
      obtain ⟨d, hd⟩ | hfull | hheld := hserved j hj (Nat.lt_succ_of_le hj') ((htake j).2 ht)
      · refine .inl ⟨d, hd, fun hs => ?_⟩
        obtain hold | hfresh := hgrow.fresh _ (State.owner_mem hd)
        · exact absurd (List.mem_map_of_mem hold) ((State.owner_eq_none_iff ..).1 hs)
        · exact hfresh
      · exact .inr (.inl hfull)
      · exact .inr (.inr (by rw [hgrow.limits] at hheld; exact hheld))
    case kept =>
      obtain ⟨l, hl⟩ := hgrow.grown
      rw [State.arbitrate_claims, hclaims, hl]
      exact List.mem_append_right l hy
    case new =>
      rw [State.arbitrate_claims, hclaims] at hy
      obtain hy | ⟨ho, j, hj, hlt, ht, haddr⟩ := hnew y hy
      · exact .inl hy
      · exact .inr ⟨ho, j, hj, Nat.le_of_lt_succ hlt, (htake j).1 ht, haddr⟩
    case last =>
      have hcount : u.faultedContexts =
          ([0, 1, 2, 3, 4, 5, 6, 7] : List CtxNum).filter faulted := by
        rw [State.faultedContexts_eq, hgrow.rest]
        rfl
      have hraised : start.finishRebuild = { u with
          mode := .run, work := .idle, events := done.events, eventSeq := done.eventSeq, lostEvents := done.lostEvents } := by
        rw [hend, if_pos hlast, State.recoveryDone, hcount]
        exact State.raise_eq_of_queue (s := { s with mode := .run }) (t := { u with mode := .run, work := .idle })
          (by rw [hgrow.rest]; rfl) (by rw [hgrow.rest]; rfl) (by rw [hgrow.rest]; rfl) (by rw [hgrow.rest]; rfl) rfl ..
      rw [State.arbitrate_eq, hraised]
      exact ⟨rfl, rfl, rfl, rfl, rfl⟩
    case more =>
      rw [if_neg hmore] at hend
      rw [State.arbitrate_mode, State.arbitrate_work, State.arbitrate_events, hend]
      exact ⟨by show u.mode = _; rw [hgrow.rest]; exact hmode, rfl, by show u.events = _; rw [hgrow.rest]; rfl⟩
  case replay =>
    intro all faulted left
    have hseq : nextSeq v.found = q := nextSeq_eq hnone hmax
    have hleft : s.rebuildList = left := by
      rw [State.rebuildList, State.faultedContexts, flatMap_filter]
      refine List.flatMap_congr fun d _ => ?_
      cases s.ctx d with
      | free => rfl
      | active p e => cases p <;> rfl
    have hdone : ({ s with epochSeq := q } : State).faultedContexts = all.filter faulted := State.faultedContexts_eq
    refine ⟨fun hmore => ?_, fun hlast => ?_⟩
    · unfold State.finishReplay
      rw [hseq, hleft]
      exact if_neg fun h => hmore (List.isEmpty_iff.1 h)
    · unfold State.finishReplay
      rw [hseq, hleft]
      refine (if_pos (List.isEmpty_iff.2 hlast)).trans ?_
      rw [State.recoveryDone, hdone]
      rfl

end Sys2Proof.Machine
end

section
/-! SUPPORT. The PFAIL# level and the owner of the port: no operation of the tables, of the host path or of the Replay Engine reads them, so each does the same with any of them. -/

namespace Sys2Proof.Machine

variable {s : State}

/-- The same state with another PFAIL# level and another owner of the port. -/
def State.rewired (s : State) (p : Bool) (o : Option Requester) (l : Requester) : State :=
  { s with pfail := p, holder := o, lastHolder := l }

section
variable {p : Bool} {o : Option Requester} {l : Requester}

/-! ### Events, epochs and claims -/

theorem State.raise_rewired (k c i d n a) : (s.rewired p o l).raise k c i d n a = (s.raise k c i d n a).rewired p o l := by
  unfold State.raise
  rw [apply_ite fun u : State => u.rewired p o l, apply_ite fun u : State => u.rewired p o l]
  rfl

theorem State.lowWater_rewired (n : Nat) : (s.rewired p o l).lowWater n = (s.lowWater n).rewired p o l := by
  unfold State.lowWater
  rw [apply_ite fun u : State => u.rewired p o l, ← State.raise_rewired]
  rfl

theorem State.mapEpoch_rewired (c : CtxNum) (f : Epoch → Epoch) :
    (s.rewired p o l).mapEpoch c f = (s.mapEpoch c f).rewired p o l := by
  unfold State.mapEpoch
  rw [show (s.rewired p o l).ctx c = s.ctx c from rfl]
  cases s.ctx c <;> rfl

theorem State.insertClaim_rewired (a : Addr) (c : CtxNum) :
    (s.rewired p o l).insertClaim a c = (s.insertClaim a c).rewired p o l := by
  unfold State.insertClaim
  rw [apply_ite fun u : State => u.rewired p o l]
  rfl

theorem State.extendChain_rewired (c : CtxNum) (e : Epoch) :
    (s.rewired p o l).extendChain c e = (s.extendChain c e).rewired p o l := by
  unfold State.extendChain
  rw [apply_ite fun u : State => u.rewired p o l, ← State.lowWater_rewired, ← State.mapEpoch_rewired]
  rfl

theorem State.takeRollback_rewired (c : CtxNum) (k : Cause) :
    (s.rewired p o l).takeRollback c k = (s.takeRollback c k).rewired p o l := by
  unfold State.takeRollback
  rw [show (s.rewired p o l).ctx c = s.ctx c from rfl]
  cases s.ctx c with
  | free => rfl
  | active q e =>
    cases q with
    | opened t =>
      dsimp only
      rw [apply_ite fun u : State => u.rewired p o l, ← State.raise_rewired]
      rfl
    | committing | rollingBack | discarding | faulted => rfl

/-! ### Refusals and holds -/

theorem State.thresholdReached_rewired (i : SrcNum) (g : Group) (b : Option CtxNum) :
    (s.rewired p o l).thresholdReached i g b = (s.thresholdReached i g b).rewired p o l := by
  have fenced : (if (s.settings g).fence then (s.rewired p o l).setFence i true else s.rewired p o l) =
      (if (s.settings g).fence then s.setFence i true else s).rewired p o l := by
    rw [apply_ite fun u : State => u.rewired p o l]; rfl
  have aborted (t : State) (c : Option CtxNum) : (t.rewired p o l).thresholdAbort c = (t.thresholdAbort c).rewired p o l := by
    cases c with
    | none => rfl
    | some c => exact State.takeRollback_rewired c .threshold
  unfold State.thresholdReached
  dsimp only
  rw [apply_ite fun u : State => u.rewired p o l, ← State.raise_rewired, ← aborted, ← fenced]
  rfl

theorem State.countBound_rewired (i : SrcNum) (g : Group) (b : Option CtxNum) :
    (s.rewired p o l).countBound i g b = (s.countBound i g b).rewired p o l := by
  unfold State.countBound
  dsimp only
  rw [apply_ite fun u : State => u.rewired p o l, ← State.thresholdReached_rewired]
  rfl

theorem State.refuse_rewired (a : Access) (k : RefusalKind) :
    (s.rewired p o l).refuse a k = (s.refuse a k).rewired p o l := by
  unfold State.refuse State.report
  cases k.group with
  | none => rfl
  | some g => exact State.countBound_rewired (s := s.endRefused a k) ..

theorem State.enterHold_rewired (h : HostAccess) (r : HoldReason) :
    (s.rewired p o l).enterHold h r = (s.enterHold h r).rewired p o l := by
  unfold State.enterHold
  rw [show (s.rewired p o l).limits = s.limits from rfl]
  cases h.holdLeft.getD s.limits.holdlim with
  | zero => exact State.refuse_rewired ..
  | succ n => rfl

theorem State.settle_rewired (h : HostAccess) (v : Verdict) : (s.rewired p o l).settle h v = (s.settle h v).rewired p o l := by
  cases v with
  | done | send => rfl
  | refused k => exact State.refuse_rewired ..
  | hold => exact State.enterHold_rewired ..

theorem State.deliver_rewired (r : Report) : (s.rewired p o l).deliver r = (s.deliver r).rewired p o l := by
  unfold State.deliver
  rw [show (s.rewired p o l).access = s.access from rfl]
  cases s.access with
  | none => rfl
  | some h =>
    obtain ⟨a, place, left⟩ := h
    cases place with
    | toMemory => rfl
    | held reason =>
      dsimp only
      rw [apply_ite fun u : State => u.rewired p o l, State.classifyAgain, State.classifyAgain, ← State.settle_rewired]
      rfl

theorem State.requestRollback_rewired (c : CtxNum) (k : Cause) :
    (s.rewired p o l).requestRollback c k = (s.requestRollback c k).rewired p o l := by
  unfold State.requestRollback
  rw [State.takeRollback_rewired, ← State.deliver_rewired]
  rfl

/-! ### The starts of grants -/

theorem State.capacityAbort_rewired (a : Access) (c : CtxNum) (k : RefusalKind) :
    (s.rewired p o l).capacityAbort a c k = (s.capacityAbort a c k).rewired p o l := by
  unfold State.capacityAbort State.count
  dsimp only
  simp only [apply_ite fun u : State => u.rewired p o l, ← State.requestRollback_rewired, ← State.countBound_rewired,
    ← State.refuse_rewired]
  rfl

theorem State.capacityOutcome_rewired (h : HostAccess) (c : CtxNum) (q : Shortage) :
    (s.rewired p o l).capacityOutcome h c q = (s.capacityOutcome h c q).rewired p o l := by
  unfold State.capacityOutcome
  rw [show (s.rewired p o l).limits = s.limits from rfl]
  cases s.limits.jfull with
  | hold =>
    cases q with
    | claimFull | journalFull => exact State.enterHold_rewired ..
    | quota => exact State.refuse_rewired ..
  | refuse => exact State.refuse_rewired ..
  | abort => exact State.capacityAbort_rewired ..

end

/-! ### The PFAIL# level and a grant's start -/

/-- The requester that holds the port and the last holder stand. -/
structure OwnerKept (s t : State) : Prop where
  holder : t.holder = s.holder
  last : t.lastHolder = s.lastHolder

namespace OwnerKept

theorem trans {t u : State} (h : OwnerKept s t) (h' : OwnerKept t u) : OwnerKept s u :=
  ⟨h'.holder.trans h.holder, h'.last.trans h.last⟩

/-- An operation that does the same with any owner of the port leaves the owner. -/
theorem of_rewired {f : State → State} (hf : ∀ p o l, f (s.rewired p o l) = (f s).rewired p o l) : OwnerKept s (f s) :=
  have hself : f s = (f s).rewired s.pfail s.holder s.lastHolder := hf s.pfail s.holder s.lastHolder
  ⟨(congrArg State.holder hself).trans rfl, (congrArg State.lastHolder hself).trans rfl⟩

end OwnerKept

/-- The same state with PFAIL# asserted. -/
def State.failing (s : State) : State := { s with pfail := true }

theorem State.failing_of_rewired {f : State → State} (hf : ∀ p o l, f (s.rewired p o l) = (f s).rewired p o l) :
    f s.failing = (f s).failing := by
  have kept : OwnerKept s (f s) := .of_rewired hf
  have moved : f s.failing = (f s).rewired true s.holder s.lastHolder := hf true s.holder s.lastHolder
  rw [moved, ← kept.holder, ← kept.last]
  rfl

theorem State.startForwarded_failing (h : HostAccess) : s.failing.startForwarded h = (s.startForwarded h).failing := by
  unfold State.startForwarded
  dsimp only
  split <;> rfl

theorem State.startJournalled_failing (h : HostAccess) (c : CtxNum) :
    s.failing.startJournalled h c = (s.startJournalled h c).failing := by
  unfold State.startJournalled
  rw [show s.failing.ctx c = s.ctx c from rfl]
  cases (s.ctx c).epoch with
  | none => rfl
  | some e =>
    dsimp only
    rw [show s.failing.shortage c e = s.shortage c e from rfl]
    cases s.shortage c e with
    | some q =>
      exact State.failing_of_rewired (s := s.freePort) (f := fun u => u.capacityOutcome h c q)
        fun _ _ _ => State.capacityOutcome_rewired ..
    | none =>
      have claimed : s.failing.insertClaim h.acc.addr c = (s.insertClaim h.acc.addr c).failing :=
        State.failing_of_rewired (f := fun u => u.insertClaim h.acc.addr c) fun _ _ _ => State.insertClaim_rewired ..
      have extended (u : State) : u.failing.extendChain c e = (u.extendChain c e).failing :=
        State.failing_of_rewired (f := fun u => u.extendChain c e) fun _ _ _ => State.extendChain_rewired ..
      dsimp only
      rw [claimed, extended]
      rfl

theorem State.startHost_failing (h : HostAccess) (r : Route) : s.failing.startHost h r = (s.startHost h r).failing := by
  unfold State.startHost
  dsimp only
  rw [show s.failing.classify h.acc = s.classify h.acc from rfl]
  split
  · cases r with
    | forwarded => exact State.startForwarded_failing h
    | journalled c q => exact State.startJournalled_failing h c
  · exact State.failing_of_rewired (s := s.freePort) (f := fun u => u.settle h (s.classify h.acc))
      fun _ _ _ => State.settle_rewired ..

theorem State.startTask_failing (t : Task) : s.failing.startTask t = (s.startTask t).failing := by
  unfold State.startTask
  rw [show s.failing.work = s.work from rfl]
  cases s.work <;> rfl

/-- The start step that a given port makes does not depend on the PFAIL# level (log 31). -/
theorem State.startGiven_failing : s.failing.startGiven = s.startGiven.failing := by
  unfold State.startGiven
  rw [show s.failing.grant = s.grant from rfl, show s.failing.holder = s.holder from rfl]
  cases s.grant with
  | some g => rfl
  | none =>
    cases s.holder with
    | none => rfl
    | some r =>
      cases r with
      | ga => rfl
      | be =>
        dsimp only
        rw [show s.failing.dueTask = s.dueTask from rfl]
        cases s.dueTask with
        | none => rfl
        | some t => exact State.startTask_failing t
      | hp =>
        dsimp only [State.hostStart]
        rw [show s.failing.access = s.access from rfl]
        cases s.access with
        | none => rfl
        | some h =>
          obtain ⟨a, place, left⟩ := h
          cases place with
          | held => rfl
          | toMemory q => exact State.startHost_failing ..

/-- The same state as PFAIL# leaves it, in FROZEN (R141). -/
def State.struck (s : State) : State := { s with pfail := true, mode := .frozen }

/-- PFAIL# as it falls (R141): the given grant makes its start step, the mode becomes FROZEN, and the access in the part
is refused or stays. -/
theorem exec_pfailAsserted_taken (hr : s.inReset = false) (hm : s.mode ≠ .frozen) :
    exec .pfailAsserted s = .next s.startGiven.struck.freezeAccess := by
  have hlive : ¬ (s.inReset || s.mode == .frozen) = true := by
    rw [hr, Bool.false_or, beq_iff_eq]; exact hm
  refine congrArg Host.Outcome.next ((if_neg hlive).trans ?_)
  exact congrArg (fun u : State => State.freezeAccess { u with mode := .frozen }) State.startGiven_failing

/-! ### Which grant is given -/

/-- A free port, and a grant whose start step was made before, are left as they are. -/
theorem State.startGiven_of_settled (h : s.grant ≠ none ∨ s.holder = none) : s.startGiven = s := by
  obtain ⟨e, -⟩ | ⟨-, hg, hh⟩ | ⟨hg, hh, -⟩ | ⟨_, hg, hh, -⟩ := s.startGiven_cases
  · exact e
  all_goals
    refine absurd h (not_or.2 ⟨not_not.2 hg, ?_⟩)
    simp [hh]

theorem State.startGiven_of_arming (hg : s.grant = none) (hh : s.holder = some .ga) : s.startGiven = s.freePort := by
  simp only [State.startGiven, hg, hh]

/-- A start step that ends the grant leaves the port free. -/
theorem State.startHost_free {h : HostAccess} {r : Route} (hg : (s.startHost h r).grant = none) :
    (s.startHost h r).holder = none := by
  unfold State.startHost at hg ⊢
  dsimp only at hg ⊢
  split at hg
  · next hv =>
    rw [if_pos hv]
    cases r with
    | forwarded =>
      unfold State.startForwarded at hg
      dsimp only at hg
      split at hg <;> exact nomatch hg
    | journalled c q =>
      dsimp only [State.startJournalled] at hg ⊢
      cases he : (s.ctx c).epoch with
      | none => rfl
      | some e =>
        rw [he] at hg
        dsimp only at hg ⊢
        cases hq : s.shortage c e with
        | none => rw [hq] at hg; exact nomatch hg
        | some q =>
          exact (OwnerKept.of_rewired (s := s.freePort) (f := fun u => u.capacityOutcome h c q)
            fun _ _ _ => State.capacityOutcome_rewired ..).holder
  · next hv =>
    rw [if_neg hv]
    exact (OwnerKept.of_rewired (s := s.freePort) (f := fun u => u.settle h (s.classify h.acc))
      fun _ _ _ => State.settle_rewired ..).holder

/-- The state with the port free when no grant is in progress. -/
def State.rested (s : State) : State := { s with holder := if s.grant = none then none else s.holder }

/-- A start step carried for no access: the grant as it starts, or its end. -/
theorem State.afterStart_rested (h : s.grant = none → s.holder = none) : (s.afterStart (.accesses 0)).rested = s := by
  unfold State.afterStart State.rested
  cases hg : s.grant with
  | none =>
    dsimp only
    rw [State.arbitrate_eq, if_pos hg, ← h hg]
  | some g =>
    have hsame : s.advance (.accesses 0) = s := by
      unfold State.advance
      rw [hg]
      show s.setTodo g.todo = s
      rw [State.setTodo, hg, Option.map_some, ← hg]
    dsimp only
    rw [hsame, if_neg (show ¬ s.grant = none by rw [hg]; nofun)]

/-- A grant row that does something before its first access has made the start step of the given grant (log 31). -/
theorem State.grantRow_given {r : Requester} {mine : Task → Bool} {start : Option State} {t : State} (hg : s.grant = none)
    (e : s.grantRow r mine start (.accesses 0) = t) (hne : t ≠ s)
    (hstart : ∀ u, start = some u → s.holder = some r → s.startGiven = u ∧ (u.grant = none → u.holder = none)) :
    t.rested = s.startGiven := by
  by_cases hh : s.holder = some r
  case neg => exact absurd (e.symm.trans (State.grantRow_of_ne_holder hh ..)) hne
  by_cases hm : s.mode = .frozen
  · exact absurd (e.symm.trans (State.grantRow_frozen hg hm ..)) hne
  cases start with
  | none => exact absurd (e.symm.trans (State.grantRow_not_due hg ..)) hne
  | some u =>
    obtain ⟨hu, hfree⟩ := hstart u rfl hh
    rw [← e, State.grantRow_start hh hg hm, State.afterStart_rested hfree, hu]

theorem State.hostRow_given {mine : Task → Bool} {fits : Route → Bool → Bool} {t : State} (hg : s.grant = none)
    (e : s.hostRow mine fits (.accesses 0) = t) (hne : t ≠ s) : t.rested = s.startGiven := by
  refine State.grantRow_given hg e hne fun u hu hh => ?_
  unfold State.hostStart at hu
  split at hu
  · next h ha =>
    split at hu
    · next q hq =>
      split at hu
      · cases hu
        refine ⟨?_, State.startHost_free⟩
        simp only [State.startGiven, hg, hh, State.hostStart, ha, hq, if_true, Option.getD_some]
      · exact nomatch hu
    · exact nomatch hu
  · exact nomatch hu

theorem State.engineRow_given {mine : Task → Bool} {t : State} (hg : s.grant = none)
    (e : s.engineRow mine (.accesses 0) = t) (hne : t ≠ s) : t.rested = s.startGiven := by
  refine State.grantRow_given hg e hne fun u hu hh => ?_
  obtain ⟨task, hdue, rfl⟩ := Option.map_eq_some_iff.1 hu
  refine ⟨?_, fun hnone => nomatch hnone⟩
  simp only [State.startGiven, hg, hh, (Option.filter_eq_some_iff.1 hdue).1, Option.map_some, Option.getD_some]

end Sys2Proof.Machine
end

section
/-! SUPPORT. The owner of the port through the accesses and the ends of grants, and the statement on power failure. -/

namespace Sys2Proof.Machine

namespace OwnerKept

variable {s : State}

/-! ### Shared operations -/

theorem same : OwnerKept s s := ⟨rfl, rfl⟩

theorem raise (k c i d n a) : OwnerKept s (s.raise k c i d n a) :=
  of_rewired (f := fun u => u.raise k c i d n a) fun _ _ _ => State.raise_rewired ..

theorem mapEpoch (c : CtxNum) (f : Epoch → Epoch) : OwnerKept s (s.mapEpoch c f) :=
  of_rewired (f := fun u => u.mapEpoch c f) fun _ _ _ => State.mapEpoch_rewired ..

theorem insertClaim (a : Addr) (c : CtxNum) : OwnerKept s (s.insertClaim a c) :=
  of_rewired (f := fun u => u.insertClaim a c) fun _ _ _ => State.insertClaim_rewired ..

theorem refuse (a : Access) (k : RefusalKind) : OwnerKept s (s.refuse a k) :=
  of_rewired (f := fun u => u.refuse a k) fun _ _ _ => State.refuse_rewired ..

theorem settle (h : HostAccess) (v : Verdict) : OwnerKept s (s.settle h v) :=
  of_rewired (f := fun u => u.settle h v) fun _ _ _ => State.settle_rewired ..

theorem deliver (r : Report) : OwnerKept s (s.deliver r) :=
  of_rewired (f := fun u => u.deliver r) fun _ _ _ => State.deliver_rewired ..

theorem requestRollback (c : CtxNum) (k : Cause) : OwnerKept s (s.requestRollback c k) :=
  of_rewired (f := fun u => u.requestRollback c k) fun _ _ _ => State.requestRollback_rewired ..

theorem foldl {α : Type} {f : State → α → State} (hf : ∀ t x, OwnerKept t (f t x)) (l : List α) :
    OwnerKept s (l.foldl f s) := by
  induction l generalizing s with
  | nil => exact same
  | cons x l ih => exact (hf s x).trans ih

theorem reloadIdle (c : CtxNum) : OwnerKept s (s.reloadIdle c) := by
  unfold State.reloadIdle
  split
  · split <;> exact ⟨rfl, rfl⟩
  · exact same

theorem requestHit (h : GuardHit) : OwnerKept s (s.requestHit h) := by
  unfold State.requestHit
  split
  · exact requestRollback ..
  · exact same

theorem reportHits (l : List GuardHit) : OwnerKept s (s.reportHits l) :=
  (foldl (fun _ _ => raise ..) l).trans (foldl (fun _ h => requestHit h) l)

/-! ### Accesses -/

theorem evaluate (a : Addr) (v : Word) (w : Option CtxNum) (i : SrcNum) (b : Bool) (j : Fin 8) :
    OwnerKept s (s.evaluate a v w i b j) := by
  unfold State.evaluate
  dsimp only
  split
  · split
    · exact same
    · (repeat' split) <;> exact ⟨rfl, rfl⟩
  · exact same

theorem mark (m : Mark) : OwnerKept s (s.mark m) := by
  cases m with
  | quiet | preimage => exact ⟨rfl, rfl⟩
  | header | record | marker => exact mapEpoch ..
  | restored c a => exact trans (t := s.releaseClaim a c) ⟨rfl, rfl⟩ (mapEpoch ..)
  | watched => exact foldl (fun _ j => evaluate _ _ _ _ _ j) _

theorem performAll (l : List PlannedOp) : OwnerKept s (s.performAll l) := by
  refine foldl (fun t q => ?_) l
  have ported : OwnerKept t (t.port q.op) := by cases q.op <;> exact ⟨rfl, rfl⟩
  exact ported.trans (mark _)

/-! ### Ends of the host path and of the Replay Engine -/

theorem finishWrite (o : Option CtxNum) (l : List GuardHit) : OwnerKept s.freePort (s.finishWrite o l) := by
  have ended : OwnerKept s.freePort s.freePort.endDone := ⟨rfl, rfl⟩
  cases o with
  | none => exact ended.trans (reportHits l)
  | some c => exact (ended.trans (reloadIdle c)).trans (reportHits l)

theorem finishJournalled (w : Working) (l : List GuardHit) : OwnerKept s.freePort (s.finishJournalled w l) :=
  finishWrite (some w.ctx) l

theorem finishArming (i : Fin 8) (b : Bool) : OwnerKept s.freePort (s.finishArming i b) := by
  unfold State.finishArming
  dsimp only
  split <;> exact ⟨rfl, rfl⟩

theorem finishReleasingMarker (c : CtxNum) : OwnerKept s.freePort (s.finishReleasingMarker c) :=
  trans (t := (s.freePort.setPhase c .freeing).releaseAll c) ⟨rfl, rfl⟩ (deliver _)

theorem faultJob (c : CtxNum) (z : SlotPos) (k : FaultKind) : OwnerKept s (s.faultJob c z k) := by
  unfold State.faultJob
  split
  · next cause e _ =>
    exact trans (t := (s.setCtx c (.active (.faulted cause ⟨k, s.faultOrigin, some z⟩) e)).dropHead) ⟨rfl, rfl⟩ (raise ..)
  · exact ⟨rfl, rfl⟩

theorem finishRestore (c : CtxNum) (z : SlotPos) (j : Judged) (o : Bool) (l : List GuardHit) :
    OwnerKept s.freePort (s.finishRestore c z j o l) := by
  cases j with
  | fault k => exact faultJob c z k
  | passedOver => exact ⟨rfl, rfl⟩
  | restorable a v =>
    have moved : OwnerKept s.freePort (s.freePort.setPhase c (phaseAfter ((s.ctx c).epoch.elim [] (·.chain)) z)) :=
      ⟨rfl, rfl⟩
    exact (moved.trans (reportHits l)).trans (deliver _)

theorem recoveryDone (r : Recovery) : OwnerKept s (s.recoveryDone r) :=
  trans (t := { s with mode := .run, work := .idle }) ⟨rfl, rfl⟩ (raise ..)

theorem afterEngine : OwnerKept s s.afterEngine := by
  unfold State.afterEngine
  split
  · next r _ =>
    split
    · unfold State.finishReplay
      dsimp only
      split
      · exact trans (t := { s with epochSeq := nextSeq r.found }) ⟨rfl, rfl⟩ (recoveryDone r)
      · exact ⟨rfl, rfl⟩
    · exact same
  · exact same

theorem completionEvent (c : CtxNum) (q : Phase) (e : Epoch) : OwnerKept s (s.completionEvent c q e) := by
  cases q with
  | committing | rollingBack | discarding => exact raise ..
  | opened | faulted => exact same

theorem tallyEnd (c : CtxNum) : OwnerKept s (s.tallyEnd c) := by
  unfold State.tallyEnd
  split <;> exact ⟨rfl, rfl⟩

theorem finishFreeing (c : CtxNum) : OwnerKept s.freePort (s.finishFreeing c) := by
  unfold State.finishFreeing
  split
  · exact same
  · next q e _ =>
    split
    · exact same
    · next x rest _ =>
      refine trans ?_ (deliver _)
      split
      · have freed : OwnerKept s.freePort ((s.freePort.returnSegs [x.seg]).dropHead.setCtx c .free) := ⟨rfl, rfl⟩
        exact (freed.trans (completionEvent c q e)).trans (tallyEnd c)
      · exact ⟨rfl, rfl⟩

/-! ### Ends of the format and recovery work -/

theorem finishFormat : OwnerKept s.freePort s.finishFormat := by
  unfold State.finishFormat
  dsimp only
  split
  · split
    · exact ⟨rfl, rfl⟩
    · exact trans (t := { s.freePort with
        pool := List.range s.freePort.nseg, epochSeq := 0#16, mode := .run, work := .idle }) ⟨rfl, rfl⟩ (raise ..)
  · exact same

theorem queueJobs (r : Recovery) : OwnerKept s (s.queueJobs r) :=
  trans (t := { s with queue := s.queue ++ eight.filterMap s.jobEntry, work := .replay r }) ⟨rfl, rfl⟩ afterEngine

theorem nextChain (r : Recovery) : OwnerKept s (s.nextChain r) := by
  unfold State.nextChain
  dsimp only
  split
  · exact queueJobs _
  · exact ⟨rfl, rfl⟩

theorem setCtx (c : CtxNum) (x : Context) : OwnerKept s (s.setCtx c x) := ⟨rfl, rfl⟩

theorem faultChain (c : CtxNum) (g : List LiveSeg) : OwnerKept s (s.faultChain c g) := by
  cases g with
  | nil => exact same
  | cons x l => exact (setCtx c _).trans (raise ..)

theorem faultShort (c : CtxNum) (n k : Nat) (e : Epoch) : OwnerKept s (s.faultShort c n k e) :=
  (setCtx c _).trans (raise ..)

theorem surveyEnd (found : List LiveSeg) : OwnerKept s (s.surveyEnd found) := by
  have faulted (t : State) (l : List CtxNum) : OwnerKept t (l.foldl (fun t c => t.faultChain c (groupOf found c)) t) :=
    foldl (fun t c => faultChain c _) l
  have pooled : OwnerKept s { s with pool := (List.range s.nseg).filter fun n => !found.any (fun x => x.seg == n) } :=
    ⟨rfl, rfl⟩
  unfold State.surveyEnd
  dsimp only
  split
  · exact (pooled.trans (faulted ..)).trans (queueJobs _)
  · exact (pooled.trans (faulted ..)).trans ⟨rfl, rfl⟩

theorem finishSurvey : OwnerKept s.freePort s.finishSurvey := by
  unfold State.finishSurvey
  dsimp only
  split
  · split
    · exact ⟨rfl, rfl⟩
    · exact surveyEnd _
  · exact same

theorem finishJudgeFinal : OwnerKept s.freePort s.finishJudgeFinal := by
  unfold State.finishJudgeFinal
  dsimp only
  split
  · split
    · exact queueJobs _
    · split
      · split
        · exact (setCtx ..).trans (nextChain _)
        · exact (faultChain ..).trans (nextChain _)
        · split
          · exact (faultChain ..).trans (nextChain _)
          · split
            · exact (setCtx ..).trans (nextChain _)
            · exact ⟨rfl, rfl⟩
      · exact nextChain _
  · exact same

theorem finishJudgeSegment : OwnerKept s.freePort s.finishJudgeSegment := by
  unfold State.finishJudgeSegment
  dsimp only
  split
  · split
    · split
      · exact nextChain _
      · split
        · exact (faultShort ..).trans (nextChain _)
        · exact (faultChain ..).trans (nextChain _)
        · split
          · exact (setCtx ..).trans (nextChain _)
          · exact ⟨rfl, rfl⟩
    · exact nextChain _
  · exact same

theorem rebuildSlots (c : CtxNum) (e : Identity) (seg n k : Nat) : OwnerKept s (s.rebuildSlots c e seg n k) := by
  induction n generalizing s k with
  | zero => exact same
  | succ n ih =>
    have claimed : OwnerKept s (s.rebuildSlot c e seg k) := by
      unfold State.rebuildSlot
      dsimp only
      split
      · exact insertClaim ..
      · exact same
    exact claimed.trans (ih (k + 1))

theorem finishRebuild : OwnerKept s.freePort s.finishRebuild := by
  unfold State.finishRebuild
  dsimp only
  split
  · split
    · exact (rebuildSlots ..).trans (recoveryDone _)
    · exact (rebuildSlots ..).trans ⟨rfl, rfl⟩
  · exact same

/-- After the port has fallen free the end of a grant gives it to nobody. -/
theorem finish (y : Grant) : OwnerKept s.freePort (s.finish y) := by
  unfold State.finish
  split
  case h_1 => exact ⟨rfl, rfl⟩
  case h_2 => exact finishWrite ..
  case h_3 => exact finishJournalled ..
  case h_4 => exact finishArming ..
  case h_5 | h_6 => exact finishReleasingMarker _
  case h_7 => exact ⟨rfl, rfl⟩
  case h_8 => exact (finishRestore ..).trans afterEngine
  case h_9 => exact (finishFreeing _).trans afterEngine
  case h_10 => exact finishFormat
  case h_11 => exact finishSurvey
  case h_12 => exact finishJudgeFinal
  case h_13 => exact finishJudgeSegment
  case h_14 => exact finishRebuild

end OwnerKept

variable {s : State}

/-! ### FROZEN -/

theorem State.arbitrate_of_frozen (hm : s.mode = .frozen) : s.arbitrate = s := by
  refine if_pos ?_
  rw [hm, beq_self_eq_true, Bool.or_true, Bool.true_or]

/-- In FROZEN a grant carried on keeps the port, or ends with its requester as last holder (R77, R141). -/
theorem State.advance_of_frozen {r : Requester} (hm : s.mode = .frozen) (hh : s.holder = some r) (x : Extent) :
    (s.advance x).holder = some r ∨ (s.advance x).holder = none ∧ (s.advance x).lastHolder = r := by
  unfold State.advance
  split
  · exact .inl hh
  · next y hy =>
    have worked (todo l : List PlannedOp) : ((s.setTodo todo).performAll l).holder = some r :=
      (OwnerKept.performAll l).holder.trans hh
    split
    · have hmode : ((s.setTodo []).performAll y.todo).mode = .frozen := by
        have kept := ModeKept.trans (t := s.setTodo []) (.of_eq rfl rfl rfl)
          (ModeKept.keepsRows.performAll (s.setTodo []) y.todo)
        exact (kept.mode.resolve_right fun h => h.2.1 hm).trans hm
      generalize hu : (s.setTodo []).performAll y.todo = u at hmode
      have hholder : u.holder = some r := hu ▸ worked [] y.todo
      unfold State.finishGrant
      split
      · next z _ =>
        have ended : (u.finish z).mode = .frozen :=
          ((EndKept.finish z).mode.resolve_right fun h => h.2.1 hmode).trans hmode
        have freed : OwnerKept u.freePort (u.finish z) := .finish z
        rw [State.arbitrate_of_frozen ended]
        refine .inr ⟨freed.holder, freed.last.trans ?_⟩
        show u.holder.getD u.lastHolder = r
        rw [hholder]; rfl
      · exact .inl hholder
    · exact .inl (worked ..)

theorem State.grantRow_of_frozen {r q : Requester} (hm : s.mode = .frozen) (hh : s.holder = some r) (mine : Task → Bool)
    (start : Option State) (x : Extent) :
    (s.grantRow q mine start x).holder = some r ∨
      (s.grantRow q mine start x).holder = none ∧ (s.grantRow q mine start x).lastHolder = r := by
  by_cases hq : s.holder = some q
  case neg => rw [State.grantRow_of_ne_holder hq]; exact .inl hh
  cases hg : s.grant with
  | none => rw [State.grantRow_frozen hg hm]; exact .inl hh
  | some y =>
    cases hy : mine y.task with
    | true => rw [State.grantRow_mine hq hg hy]; exact State.advance_of_frozen hm hh x
    | false => rw [State.grantRow_other hg hy]; exact .inl hh

/-- In FROZEN no grant row starts a grant, and one in progress keeps the port or ends (R77, R141). -/
theorem exec_grant_of_frozen {c : Instr} {t : State} (hc : c.isGrant = true) (hm : s.mode = .frozen)
    (e : exec c s = .next t) :
    (s.grant = none → t = s) ∧
      (∀ r, s.holder = some r → t.holder = some r ∨ t.holder = none ∧ t.lastHolder = r) := by
  have row (q : Requester) (mine start x) (e : s.grantRow q mine start x = t) : (s.grant = none → t = s) ∧
      (∀ r, s.holder = some r → t.holder = some r ∨ t.holder = none ∧ t.lastHolder = r) :=
    ⟨fun hg => e.symm.trans (State.grantRow_frozen hg hm ..),
      fun r hh => e ▸ State.grantRow_of_frozen hm hh mine start x⟩
  cases c
  case forwardedRead | forwardedWrite | journalledWriteGrant => cases e; exact row .hp _ _ _ rfl
  case armingRead => cases e; exact row .ga _ _ _ rfl
  case commitMarker | restoreStep | abortMarker | discardMarker | freeingStep | formatStep | surveyStep
      | judgementFinalSegment | judgementSegment | claimRebuild => cases e; exact row .be _ _ _ rfl
  all_goals exact nomatch hc

/-- In FROZEN a frame leaves the port and the grant in progress. -/
theorem exec_frame_of_frozen {c : Instr} {t : State} (hc : c.isFrame = true) (hm : s.mode = .frozen)
    (e : exec c s = .next t) : OwnerKept s t ∧ t.grant = s.grant := by
  have frame {f : State → State} (hf : OwnerKept s (f s) ∧ (f s).grant = s.grant) :
      OwnerKept s (s.frame f) ∧ (s.frame f).grant = s.grant := by
    obtain ⟨-, h⟩ | ⟨-, h⟩ := s.frame_cases f
    · rw [h]; exact ⟨.same, rfl⟩
    · rw [h]; exact hf
  cases hans : c.isAnsweredInFrozen with
  | true =>
    cases c
    case getId | getStatus | ackLost | repeatResponse | getLimits | badOpcode | shortFrame =>
      cases e; exact frame ⟨⟨rfl, rfl⟩, rfl⟩
    case popEvent | getRegion | getGuard | getContext | getCounters =>
      cases e
      refine frame ?_
      split <;> exact ⟨⟨rfl, rfl⟩, rfl⟩
    all_goals exact nomatch hans
  | false =>
    cases hr : s.inReset with
    | false => cases (exec_of_refused_in_frozen hr hm hc hans).symm.trans e; exact ⟨⟨rfl, rfl⟩, rfl⟩
    | true =>
      suffices h : t = s by rw [h]; exact ⟨.same, rfl⟩
      cases c
      case setGeometry | format | recover | gate | setLimits | setRegion | setGuard | openEpoch | commit | abort | touch
          | retry | discard | setAccounting | clearCounters | unfence | setEventMask | setStatSelect =>
        exact (Host.Outcome.next.inj e).symm.trans (State.frame_reset hr _)
      case getId | getStatus | popEvent | ackLost | repeatResponse | getLimits | getRegion | getGuard | getContext
          | getCounters | badOpcode | shortFrame => exact nomatch hans
      all_goals exact nomatch hc

theorem State.freezeAccess_of_stays (h : s.access = none ∨ s.holder = some .hp ∧ ∃ a q l, s.access = some ⟨a, .toMemory q, l⟩) :
    s.freezeAccess = s := by
  unfold State.freezeAccess
  obtain ha | ⟨hh, a, q, l, ha⟩ := h
  · rw [ha]
  · rw [ha]; exact if_pos hh

theorem State.freezeAccess_of_refused {a : Access} {z : Place} {l : Option Nat} (ha : s.access = some ⟨a, z, l⟩)
    (hz : (∃ k, z = .held k) ∨ s.holder ≠ some .hp) : s.freezeAccess = s.endRefused a .frozen := by
  have hrefuse : s.refuse a .frozen = s.endRefused a .frozen := State.refuse_of_uncounted rfl a
  unfold State.freezeAccess
  rw [ha]
  cases z with
  | held k => exact hrefuse
  | toMemory q => exact (if_neg (hz.resolve_left nofun)).trans hrefuse

/-- A command in FROZEN that is no frame, no grant and no reset leaves the port and the grant in progress. -/
theorem exec_other_of_frozen {c : Instr} {t : State} (hf : c.isFrame = false) (hg : c.isGrant = false) (hne : c ≠ .reset)
    (hm : s.mode = .frozen) (e : exec c s = .next t) : OwnerKept s t ∧ t.grant = s.grant := by
  cases c
  case hostAccessStart addr be src write data =>
    by_cases hs : (s.inReset || s.access.isSome) = true
    · cases e; rw [if_pos hs]; exact ⟨.same, rfl⟩
    · cases e
      rw [if_neg hs]
      have struck : OwnerKept s { s with herr := false } := ⟨rfl, rfl⟩
      rw [State.arbitrate_of_frozen ((State.mode_of_fixed (State.classifyAgain_fixed { s with herr := false } _)).trans hm)]
      exact ⟨struck.trans (.settle ..), State.settle_grant ..⟩
  case strobeIgnored | pfailDeasserted => cases e; exact ⟨⟨rfl, rfl⟩, rfl⟩
  case idleExpiry | holdExpired => cases e; rw [hm]; exact ⟨.same, rfl⟩
  case pfailAsserted =>
    cases e
    rw [hm, beq_self_eq_true, Bool.or_true]
    exact ⟨⟨rfl, rfl⟩, rfl⟩
  case resetEnd => cases e; split <;> exact ⟨⟨rfl, rfl⟩, rfl⟩
  case reset => exact absurd rfl hne
  case forwardedRead | forwardedWrite | journalledWriteGrant | armingRead | commitMarker | restoreStep | abortMarker
      | discardMarker | freeingStep | formatStep | surveyStep | judgementFinalSegment | judgementSegment
      | claimRebuild => exact nomatch hg
  all_goals exact nomatch hf

/-- In FROZEN every command but a reset leaves the mode (R139, R141). -/
theorem exec_mode_of_frozen {c : Instr} {t : State} (hne : c ≠ .reset) (hm : s.mode = .frozen) (e : exec c s = .next t) :
    t.mode = .frozen := by
  cases hc : shiftsMode c with
  | false => exact ((exec_modeKept hc e).mode.resolve_right fun h => h.2.1 hm).trans hm
  | true =>
    cases c
    case reset => exact absurd rfl hne
    case pfailAsserted => exact (exec_pfailAsserted_kept e).2.2.elim (·.trans hm) id
    case resetEnd => exact (exec_resetEnd_kept e).2.2.elim (·.trans hm) (·.2.2)
    case setGeometry | format | recover | gate =>
      obtain h | ⟨-, h, -⟩ | ⟨-, h, -⟩ | ⟨-, h, -⟩ := (exec_setsUp_kept rfl hne e).2.2
      · exact h.trans hm
      all_goals exact nomatch h.symm.trans hm
    all_goals exact nomatch hc

/-- What a command other than a reset does in FROZEN: with no grant in progress, or no requester at the port, it leaves
the port and memory; a requester at the port keeps it, or its grant ends (R77, R119, R141). -/
theorem exec_of_frozen {c : Instr} {t : State} (hne : c ≠ .reset) (hm : s.mode = .frozen) (e : exec c s = .next t) :
    (s.grant = none ∨ s.holder = none → OwnerKept s t ∧ t.mem = s.mem ∧ t.grant = s.grant) ∧
      (∀ r, s.holder = some r → t.holder = some r ∨ t.holder = none ∧ t.lastHolder = r) := by
  cases hg : c.isGrant with
  | true =>
    obtain ⟨hnone, hheld⟩ := exec_grant_of_frozen hg hm e
    refine ⟨fun h => ?_, hheld⟩
    have hsame : t = s := h.elim hnone fun hh => Host.Outcome.next.inj (e.symm.trans (exec_grant_of_free hg hh))
    rw [hsame]
    exact ⟨.same, rfl, rfl⟩
  | false =>
    obtain ⟨hkept, hgrant⟩ : OwnerKept s t ∧ t.grant = s.grant := by
      cases hf : c.isFrame with
      | true => exact exec_frame_of_frozen hf hm e
      | false => exact exec_other_of_frozen hf hg hne hm e
    exact ⟨fun _ => ⟨hkept, onlyGrantsTouchMemory c s t hg e, hgrant⟩, fun r hh => .inl (hkept.holder.trans hh)⟩

/-! ### The statement -/

/-- A forwarded read whose start step was made before, carried to its end (R67). -/
theorem exec_forwardedRead_of_started {a : Access} (hh : s.holder = some .hp)
    (hg : s.grant = some ⟨.forwardedRead a, [(PortOp.read a.addr).plain], [], []⟩) :
    exec (.forwardedRead .toEnd) s = .next (((s.freed .hp).endRead (s.word a.addr)).arbitrate) := by
  have hdone : (s.setTodo []).grant = some ⟨.forwardedRead a, [], [], []⟩ :=
    show s.grant.map _ = _ by rw [hg]; rfl
  refine congrArg Host.Outcome.next ((State.grantRow_mine hh hg rfl _ _).trans ?_)
  unfold State.advance
  rw [hg]
  refine (State.finishGrant_of_grant hdone).trans ?_
  rw [← State.freePort_eq_freed hh]
  rfl

/-- Settles O51: PFAIL# finds the given grant as after its start step, which does not depend on the level; in FROZEN a grant
row only carries on the grant in progress, and every other command leaves the port. -/
theorem powerFailureFreezes : Obligations.PowerFailureFreezes := by
  refine ⟨fun s hr => ⟨rfl, fun hm => ?again, fun hm => ⟨fun kept hk => ?given, fun row t hrow hg e hne => ?rows,
    fun a l hh hg ha hw hv => ?reads⟩⟩, fun s t hm hne e => ?frozen⟩
  case again =>
    refine congrArg Host.Outcome.next (if_pos ?_)
    rw [hm, beq_self_eq_true, Bool.or_true]
  case given =>
    obtain ⟨hexec, haccess, hhd, hholder⟩ : exec .pfailAsserted s = .next kept.freezeAccess ∧ kept.access = s.access ∧
        kept.hd = s.hd ∧ (kept.holder = s.holder ∨ s.holder = some .ga ∧ kept.holder = none) := by
      rw [exec_pfailAsserted_taken hr hm]
      obtain ⟨hsettled, rfl⟩ | ⟨hg, hh, rfl⟩ := hk
      · rw [State.startGiven_of_settled hsettled]
        exact ⟨rfl, rfl, rfl, .inl rfl⟩
      · rw [State.startGiven_of_arming hg hh, State.freePort_eq_freed hh]
        have hfreed : s.freed .ga = { s with holder := none, lastHolder := .ga } :=
          congrArg (fun y => { s with holder := none, grant := y, lastHolder := .ga }) hg.symm
        rw [hfreed]
        exact ⟨rfl, rfl, rfl, .inr ⟨hh, rfl⟩⟩
    rw [hexec]
    refine ⟨fun h => congrArg _ (State.freezeAccess_of_stays ?_), fun a z l ha hz => ?_⟩
    · rw [haccess]
      refine h.imp_right fun ⟨hh, hmem⟩ => ⟨hholder.elim (·.trans hh) fun ⟨hga, _⟩ => ?_, hmem⟩
      exact nomatch hh.symm.trans hga
    · have hat : (∃ k, z = .held k) ∨ kept.holder ≠ some .hp := hz.imp_right fun hne hk =>
        hholder.elim (fun e => hne (e.symm.trans hk)) fun ⟨_, e⟩ => nomatch e.symm.trans hk
      rw [State.freezeAccess_of_refused (haccess.trans ha) hat, State.endRefused, hhd]
  case rows =>
    have ht : t.rested = s.startGiven := by
      simp only [List.mem_cons, List.not_mem_nil, or_false] at hrow
      obtain rfl | rfl | rfl | hrow := hrow
      · exact State.hostRow_given hg (Host.Outcome.next.inj e) hne
      · exact State.hostRow_given hg (Host.Outcome.next.inj e) hne
      · exact State.hostRow_given hg (Host.Outcome.next.inj e) hne
      · obtain rfl | rfl | rfl | rfl | rfl | rfl | rfl | rfl | rfl | rfl := hrow <;>
          exact State.engineRow_given hg (Host.Outcome.next.inj e) hne
    have hsettled : t.rested.grant ≠ none ∨ t.rested.holder = none := by
      by_cases h : t.grant = none
      · exact .inr (if_pos h)
      · exact .inl h
    show _ = exec .pfailAsserted t.rested
    rw [exec_pfailAsserted_taken hr hm, exec_pfailAsserted_taken, State.startGiven_of_settled hsettled, ht]
    · rw [ht]; exact (congrArg State.inReset s.startGiven_fixed).trans hr
    · rw [ht, State.mode_of_fixed s.startGiven_fixed]; exact hm
  case reads =>
    have hstart : s.startGiven = s.startGrant (.forwardedRead a) [(PortOp.read a.addr).plain] := by
      simp only [State.startGiven, hg, hh, State.hostStart, ha, if_true, Option.getD_some]
      rw [State.startHost_of_forwarded hv, State.startForwarded, hw]
      rfl
    have hstays : s.startGiven.struck.freezeAccess = s.startGiven.struck := by
      rw [hstart]
      exact State.freezeAccess_of_stays (.inr ⟨hh, a, .forwarded, l, ha⟩)
    refine ⟨_, exec_pfailAsserted_taken hr hm, ?_⟩
    rw [hstays, hstart]
    refine (exec_forwardedRead_of_started (s := (s.startGrant _ _).struck) hh rfl).trans (congrArg _ ?_)
    exact State.arbitrate_of_frozen rfl
  case frozen =>
    suffices h : t.mode = .frozen ∧
        (s.grant = none ∨ s.holder = none → OwnerKept s t ∧ t.mem = s.mem ∧ t.grant = s.grant) ∧
        (∀ r, s.holder = some r → t.holder = some r ∨ t.holder = none ∧ t.lastHolder = r) by
      obtain ⟨hmode, hkept, hheld⟩ := h
      refine ⟨hmode, fun hg => ?_, fun hh => ?_, hheld⟩
      · obtain ⟨ho, hmem, hgrant⟩ := hkept (.inl hg)
        exact ⟨ho.holder, ho.last, hmem, hgrant.trans hg⟩
      · obtain ⟨ho, hmem, hgrant⟩ := hkept (.inr hh)
        exact ⟨ho.holder.trans hh, ho.last, hmem, hgrant⟩
    unfold step at e
    split at e
    · have hidle : s.tick = s := if_neg fun h => nomatch h.1.symm.trans hm
      rw [hidle] at e
      cases e
      exact ⟨hm, fun _ => ⟨.same, rfl, rfl⟩, fun r hh => .inl hh⟩
    · next c rest hpending =>
      have hc : c ≠ .reset := fun h => hne (by rw [hpending, h]; rfl)
      obtain ⟨hkept, hheld⟩ := exec_of_frozen (s := { s with pending := rest }) hc hm e
      exact ⟨exec_mode_of_frozen (s := { s with pending := rest }) hc hm e,
        fun h => let ⟨ho, hmem, hgrant⟩ := hkept h; ⟨⟨ho.holder, ho.last⟩, hmem, hgrant⟩, hheld⟩

end Sys2Proof.Machine
end
